-- ==== Sys2Proof/Word.lean ====
section
/-! DEFINITION. The value types of the block (00_scope.md R7, R9): a byte, a 16-bit word, and the one
wrapping addition. All quantities are unsigned. -/

namespace Sys2Proof

/-- A byte, `u8`: bit 7 is the most significant (R7, R42). -/
abbrev Byte := BitVec 8

/-- A `u16` (R7). -/
abbrev Word := BitVec 16

/-- `add16(a, b) = (a + b) mod 65536` (R9). -/
def add16 (a b : Word) : Word := a + b

end Sys2Proof
end

