-- ==== Sys2Proof/Config.lean ====
section
/-! DEFINITION. What is fixed for the block and the open parameters (00_scope.md R6), and the free values: what a
dead register holds (10_state.md R27, R36; notes/assumptions/1.md). -/

namespace Sys2Proof.Config

/-- `HEADER`, the one byte value accepted in AwaitingHeader (R6). -/
def header : Byte := 0xAA
/-- `LEN_OVERHEAD`: bytes the Length field counts that are not payload (R6). -/
def lenOverhead : Nat := 3
/-- `LEN_MIN`, the smallest accepted declared length (R6). -/
def lenMin : Nat := 6
/-- `LEN_MAX`, the largest value of the Length field (R6). -/
def lenMax : Nat := 65535
/-- `PAYLOAD_MIN` (R6). -/
def payloadMin : Nat := lenMin - lenOverhead
/-- `PAYLOAD_MAX` = `BUF_CAP`, the capacity of the payload buffer (R6, R25). -/
def bufCap : Nat := lenMax - lenOverhead
/-- `CK_BYTES`, checksum bytes on the wire, not counted by Length (R6). -/
def ckBytes : Nat := 2
/-- `SEL_DISTANCE` (R6, R69). -/
def selDistance : Byte := 0xAD
/-- `SEL_LIDAR_SPEED` (R6, R69). -/
def selLidarSpeed : Byte := 0xAE
/-- `DIST_MIN_DATA`: the source's minimum for Distance command data (R6, R124). -/
def distMinData : Nat := 5
/-- `DIST_FIXED`: bytes of Distance command data before the first sample (R6, R126). -/
def distFixed : Nat := 7
/-- `SAMPLE_BYTES` (R6, R66). -/
def sampleBytes : Nat := 3
/-- `SAMPLES_MAX` (R6). -/
def samplesMax : Nat := (bufCap - 2 - distFixed) / sampleBytes
/-- Counts per unit of each scale (R6): `SCALE_SPEED` = 1/20 deg/s, `SCALE_ANGLE` = 1/100 deg,
`SCALE_DIST` = 1/4 mm. -/
def speedPerUnit : Nat := 20
def anglePerUnit : Nat := 100
def distPerUnit : Nat := 4
/-- External link parameters; no rule of the block depends on them (R6, R196). -/
def baud : Nat := 230400
def usbVid : Nat := 4292
def usbPid : Nat := 60000

/-! The open parameters (R6): no source fixes them, so what depends on one takes them as an argument
(Machine/HostSide.lean). No rule of the block's step reads one (92_eei_decisions.md, "Open parameters"). -/

/-- A floating-point format: its width, and the pattern it gives an exact value. -/
structure FloatFormat where
  width  : Nat
  encode : ℚ → BitVec width

/-- The three open parameters. -/
structure OpenParams where
  /-- `FLOAT_FMT`: how a host renders scaled values (R10, D13). -/
  floatFmt    : FloatFormat
  /-- `READ_TIMEOUT`, the host's per-byte read timeout, in seconds (R146). -/
  readTimeout : ℚ
  /-- `QUEUE_DEPTH`, the depth of the hand-off queue; none where it has no limit (R149, D21). -/
  queueDepth  : Option Nat

/-- The timeout is "sub-second" (R6, the one limit the spec sets). That it is not 0 is DESIGN CHOICE
(notes/assumptions/24.md): R6 gives no lower bound. -/
def OpenParams.Allowed (p : OpenParams) : Prop := 0 < p.readTimeout ∧ p.readTimeout < 1

/-! Free values. A dead register "holds an unspecified value" (R27): when a step makes the registers
dead, they take these, at the count `State.free` has then reached. Nothing in Lean can evaluate them. -/

/-- What `ck` holds once dead. -/
opaque freeCk : Nat → Word
/-- What `len` holds once dead. -/
opaque freeLen : Nat → Word
/-- What `rxh` holds once dead. -/
opaque freeRxh : Nat → Byte
/-- What bytes `buf` holds once dead (its first `bufCap` bytes are used). -/
opaque freeBuf : Nat → List Byte

end Sys2Proof.Config
end

