-- ==== Sys2Proof/Syntax.lean ====
section
/-! DEFINITION. The input events (30_encoding.md R61) and the operations, one constructor for each row of
spec/opcode_table.json (00_scope.md R13: an operation is this block's instruction). -/

namespace Sys2Proof

/-- The four input events (R61). -/
inductive Event where
  | idle
  | byte (b : Byte)
  | reset
  | close
  deriving DecidableEq, Repr

/-- The four formats of the operation table (R75). -/
inductive Format where
  | sb | ev | sel | internal
  deriving DecidableEq, Repr

/-- The operations. An operand is what the operation's own rule lists under "Operands". -/
inductive Instr where
  /-- `HDR` (R101): accept the header byte `b`. -/
  | hdr (b : Byte)
  /-- `HDR_REJ` (R102): reject the byte `b`, which is no header. -/
  | hdrRej (b : Byte)
  /-- `LEN_HI` (R103): `b` is the high byte of the length. -/
  | lenHi (b : Byte)
  /-- `LEN_LO` (R104): `b` is the low byte of the length. -/
  | lenLo (b : Byte)
  /-- `PAY` (R105): `b` is a payload byte. -/
  | pay (b : Byte)
  /-- `CKB_HI` (R106): `b` is the high byte of the received checksum. -/
  | ckbHi (b : Byte)
  /-- `CKB_LO` (R107): `b` is the low byte of the received checksum. -/
  | ckbLo (b : Byte)
  /-- `IDLE` (R108). -/
  | idle
  /-- `RESET` (R109). -/
  | reset
  /-- `CLOSE` (R145). -/
  | close
  /-- `CMD_DIST` (R123) on the command data. -/
  | cmdDist (data : List Byte)
  /-- `CMD_SPEED` (R129) on the command data. -/
  | cmdSpeed (data : List Byte)
  /-- `CMD_UNSUP` (R130) for the selector `sel`. -/
  | cmdUnsup (sel : Byte)
  /-- `DEMUX` (R122) on a payload. -/
  | demux (payload : List Byte)
  /-- `CK_INIT` (R91). -/
  | ckInit (b : Byte)
  /-- `CK_FOLD` (R92) on the checksum value `c`. -/
  | ckFold (c : Word) (b : Byte)
  /-- `CK_SUM` (R93). -/
  | ckSum (bytes : List Byte)
  /-- `STEP` (R140) on one input event. -/
  | stepEvent (e : Event)
  deriving DecidableEq, Repr

/-- The format of each operation's row (R75). -/
def Instr.format : Instr → Format
  | .hdr _ | .hdrRej _ | .lenHi _ | .lenLo _ | .pay _ | .ckbHi _ | .ckbLo _ => .sb
  | .idle | .reset | .close => .ev
  | .cmdDist _ | .cmdSpeed _ | .cmdUnsup _ => .sel
  | .demux _ | .ckInit _ | .ckFold _ _ | .ckSum _ | .stepEvent _ => .internal

end Sys2Proof
end

