-- ==== Sys2Proof/WellFormed.lean ====
section
/-! DEFINITION. Which operations are well-formed: the operand values their selection can give
(30_encoding.md R62, R69) and sequences that the payload buffer can hold (10_state.md R25). -/

namespace Sys2Proof

/-- The most command data bytes a payload can carry: `PAYLOAD_MAX` less version and selector (R64). -/
def dataMax : Nat := Config.bufCap - 2

/-- `HDR` has the header byte and `HDR_REJ` any other (R62); `CMD_UNSUP` has neither known selector (R69);
a payload fits the buffer (R25). `DEMUX` is defined for payloads shorter than two bytes too (R131), and
`CK_SUM` for a sequence of any length (R93). -/
def Instr.wf : Instr → Bool
  | .hdr b => b == Config.header
  | .hdrRej b => b != Config.header
  | .cmdDist data => decide (data.length ≤ dataMax)
  | .cmdSpeed data => decide (data.length ≤ dataMax)
  | .cmdUnsup sel => sel != Config.selDistance && sel != Config.selLidarSpeed
  | .demux payload => decide (payload.length ≤ Config.bufCap)
  | .lenHi _ | .lenLo _ | .pay _ | .ckbHi _ | .ckbLo _ => true
  | .idle | .reset | .close => true
  | .ckInit _ | .ckFold _ _ | .ckSum _ | .stepEvent _ => true

end Sys2Proof
end

