-- ==== Sys2Proof/Decode.lean ====
section
/-! DEFINITION. Operation selection (30_encoding.md R62, R69, R75 and opcode_table.json): the rows with
their match and mask, the decoder, the encoder, and the host's numbering of a table word. -/

namespace Sys2Proof

/-- An operation word: what the format's bits select by (R75), with the operand that follows a selector. -/
inductive OpWord where
  /-- The 11-bit key `st[2:0] ++ b[7:0]` (R62). -/
  | sb (key : BitVec 11)
  /-- The 2-bit event code (R61). -/
  | ev (code : BitVec 2)
  /-- The selector `payload[1]` and the command data `payload[2..]` (R69). -/
  | sel (selector : Byte) (data : List Byte)
  deriving DecidableEq, Repr

/-- Why a word is no operation. -/
inductive DecodeError where
  /-- The key's state code is 6 or 7: "no meaning" (R21, R62). Safe. -/
  | reservedStateCode (code : BitVec 3)
  /-- Event code 1, `BYTE(b)`, is the entry to the SB rows, not an operation (R75). Safe. -/
  | byteEventNeedsKey
  /-- An INTERNAL operation has no encoding (R75). Safe. -/
  | noEncoding
  /-- Bits above the key or the event code are set. Safe. -/
  | strayBits
  /-- The bytes are not as many as the format has. Safe. -/
  | wrongLength (n : Nat)
  /-- More command data than a payload can carry (R25, R64). Safe. -/
  | dataTooLong (n : Nat)
  deriving DecidableEq, Repr

/-- The operations of the SB rows. -/
inductive SbOp where
  | hdr | hdrRej | lenHi | lenLo | pay | ckbHi | ckbLo
  deriving DecidableEq, Repr

/-- The operations of the EV rows. -/
inductive EvOp where
  | idle | reset | close
  deriving DecidableEq, Repr

/-- The operations of the SEL rows. -/
inductive SelOp where
  | cmdDist | cmdSpeed | cmdUnsup
  deriving DecidableEq, Repr

/-- A row of the operation table: it matches a word `w` when `w & mask = pattern` (R62). -/
structure Row (ω : Type) (n : Nat) where
  op      : ω
  pattern : BitVec n
  mask    : BitVec n
  deriving DecidableEq, Repr

/-- Of the rows that match, the one listed first wins (R62, R75). -/
def selectRow {ω : Type} {n : Nat} (rows : List (Row ω n)) (w : BitVec n) : Option ω :=
  (rows.find? fun r => w &&& r.mask == r.pattern).map Row.op

/-- The table of R62. -/
def sbRows : List (Row SbOp 11) :=
  [⟨.hdr,    0x0AA, 0x7FF⟩,
   ⟨.hdrRej, 0x000, 0x700⟩,
   ⟨.lenHi,  0x100, 0x700⟩,
   ⟨.lenLo,  0x200, 0x700⟩,
   ⟨.pay,    0x300, 0x700⟩,
   ⟨.ckbHi,  0x400, 0x700⟩,
   ⟨.ckbLo,  0x500, 0x700⟩]

/-- The three events of R61 that are operations of their own. -/
def evRows : List (Row EvOp 2) :=
  [⟨.idle, 0, 3⟩, ⟨.reset, 2, 3⟩, ⟨.close, 3, 3⟩]

/-- The table of R69. -/
def selRows : List (Row SelOp 8) :=
  [⟨.cmdDist,  0xAD, 0xFF⟩,
   ⟨.cmdSpeed, 0xAE, 0xFF⟩,
   ⟨.cmdUnsup, 0x00, 0x00⟩]

/-- The state code of a key, bits 10:8 (R62). -/
def keyState (key : BitVec 11) : BitVec 3 := key.extractLsb' 8 3

/-- The byte of a key, bits 7:0 (R62). -/
def keyByte (key : BitVec 11) : Byte := key.extractLsb' 0 8

/-- `key = st[2:0] ++ b[7:0]` (R62). -/
def mkKey (code : BitVec 3) (b : Byte) : BitVec 11 := code ++ b

/-- The SB operation with its operand byte. -/
def sbInstr (op : SbOp) (b : Byte) : Instr :=
  match op with
  | .hdr => .hdr b
  | .hdrRej => .hdrRej b
  | .lenHi => .lenHi b
  | .lenLo => .lenLo b
  | .pay => .pay b
  | .ckbHi => .ckbHi b
  | .ckbLo => .ckbLo b

def evInstr (op : EvOp) : Instr :=
  match op with
  | .idle => .idle
  | .reset => .reset
  | .close => .close

/-- The SEL operation with its operand: the command data, or the selector (R123, R129, R130). -/
def selInstr (op : SelOp) (selector : Byte) (data : List Byte) : Instr :=
  match op with
  | .cmdDist => .cmdDist data
  | .cmdSpeed => .cmdSpeed data
  | .cmdUnsup => .cmdUnsup selector

/-- The SB row of a key (R62). -/
def decodeSb (key : BitVec 11) : Except DecodeError Instr :=
  match selectRow sbRows key with
  | some op => .ok (sbInstr op (keyByte key))
  | none => .error (.reservedStateCode (keyState key))

/-- The EV row of an event code (R61). -/
def decodeEv (code : BitVec 2) : Except DecodeError Instr :=
  match selectRow evRows code with
  | some op => .ok (evInstr op)
  | none => .error .byteEventNeedsKey

/-- The SEL row of a selector (R69). The last row matches every selector, so the second arm is never
taken. -/
def decodeSel (selector : Byte) (data : List Byte) : Instr :=
  match selectRow selRows selector with
  | some op => selInstr op selector data
  | none => .cmdUnsup selector

/-- The operation that a word selects (R75). -/
def decodeWord : OpWord → Except DecodeError Instr
  | .sb key => decodeSb key
  | .ev code => decodeEv code
  | .sel selector data =>
    if data.length ≤ dataMax then .ok (decodeSel selector data)
    else .error (.dataTooLong data.length)

/-- The word that bytes hold in a format: a key as two bytes, high byte first; an event code as one byte;
a selector and its command data as they stand in a payload (notes/assumptions/8.md). -/
def OpWord.ofBytes (fmt : Format) (bytes : List Byte) : Except DecodeError OpWord :=
  match fmt, bytes with
  | .sb, [hi, lo] =>
    if hi.toNat < 8 then .ok (.sb (mkKey (hi.setWidth 3) lo)) else .error .strayBits
  | .ev, [c] => if c.toNat < 4 then .ok (.ev (c.setWidth 2)) else .error .strayBits
  | .sel, selector :: data => .ok (.sel selector data)
  | .internal, _ => .error .noEncoding
  | _, bs => .error (.wrongLength bs.length)

/-- The decoder: total on any bytes. -/
def decode (fmt : Format) (bytes : List Byte) : Except DecodeError Instr :=
  match OpWord.ofBytes fmt bytes with
  | .ok w => decodeWord w
  | .error e => .error e

/-! The encoder, from the same tables. -/

/-- The pattern of an SB operation's row: its state code, and for `HDR` the header byte (R62). -/
def sbCode (op : SbOp) : BitVec 3 :=
  match op with
  | .hdr | .hdrRej => 0
  | .lenHi => 1
  | .lenLo => 2
  | .pay => 3
  | .ckbHi => 4
  | .ckbLo => 5

/-- The word that selects an operation; an INTERNAL one has none (R75). The selector of an operation does
not depend on a version byte: `payload[0]` is no part of the word (R69, R121). -/
def encodeWord : Instr → Option OpWord
  | .hdr b => some (.sb (mkKey (sbCode .hdr) b))
  | .hdrRej b => some (.sb (mkKey (sbCode .hdrRej) b))
  | .lenHi b => some (.sb (mkKey (sbCode .lenHi) b))
  | .lenLo b => some (.sb (mkKey (sbCode .lenLo) b))
  | .pay b => some (.sb (mkKey (sbCode .pay) b))
  | .ckbHi b => some (.sb (mkKey (sbCode .ckbHi) b))
  | .ckbLo b => some (.sb (mkKey (sbCode .ckbLo) b))
  | .idle => some (.ev 0)
  | .reset => some (.ev 2)
  | .close => some (.ev 3)
  | .cmdDist data => some (.sel Config.selDistance data)
  | .cmdSpeed data => some (.sel Config.selLidarSpeed data)
  | .cmdUnsup selector => some (.sel selector [])
  | .demux _ => none
  | .ckInit _ => none
  | .ckFold _ _ => none
  | .ckSum _ => none
  | .stepEvent _ => none

/-- The format of a word. -/
def OpWord.format : OpWord → Format
  | .sb _ => .sb
  | .ev _ => .ev
  | .sel _ _ => .sel

/-- The bytes of a word, as `OpWord.ofBytes` reads them. -/
def OpWord.toBytes : OpWord → List Byte
  | .sb key => [(keyState key).setWidth 8, keyByte key]
  | .ev code => [code.setWidth 8]
  | .sel selector data => selector :: data

/-- The encoder: the words of a well-formed operation, as bytes. -/
def encode (i : Instr) : Option (List Byte) := (encodeWord i).map OpWord.toBytes

/-! The host's numbering of a table word. -/

/-- The bytes and the format of a table row's word. A row of 9 to 16 bits is an SB key. A row of at most 8
bits is an event code where it is the code of an EV row, and else a selector, followed by one data byte of
zero: the shortest command data FSY delivers (R121; notes/assumptions/8.md). -/
def tableBytes (nbits w : Nat) : Option (Format × List Byte) :=
  if nbits ≤ 8 then
    if w = 0 ∨ w = 2 ∨ w = 3 then some (.ev, [BitVec.ofNat 8 w])
    else if w < 256 then some (.sel, [BitVec.ofNat 8 w, 0])
    else none
  else if nbits ≤ 16 ∧ w < 65536 then
    some (.sb, [BitVec.ofNat 8 (w / 256), BitVec.ofNat 8 (w % 256)])
  else none

/-- The word of a table row. -/
def tableWord (nbits w : Nat) : Option OpWord :=
  match tableBytes nbits w with
  | some (fmt, bytes) => (OpWord.ofBytes fmt bytes).toOption
  | none => none

/-- What the decoder reads from a table row's word. -/
def decodeTableWord (nbits w : Nat) : Option Instr :=
  match tableBytes nbits w with
  | some (fmt, bytes) => (decode fmt bytes).toOption
  | none => none

end Sys2Proof
end

