-- ==== Sys2Proof/Machine/State.lean ====
section
/-! DEFINITION. The state of one D2A-FSD instance (10_state.md R20 to R25), what a step can give (R31 to
R33), the reasons a step can stop, and the state after reset (R36). -/

namespace Sys2Proof.Machine

/-- `st` takes exactly six values (R21); each names what the next input byte is. -/
inductive SyncState where
  | awaitingHeader
  | awaitingLengthByte1
  | awaitingLengthByte2
  | accumulatingPayload
  | awaitingChecksumByte1
  | awaitingChecksumByte2
  deriving DecidableEq, Repr

/-- A decoded Distance measurement, as raw counts (R33). -/
structure Distance where
  speedRaw  : Byte
  startRaw  : Word
  offsetRaw : Word
  distRaw   : List Word
  deriving DecidableEq, Repr

/-- A Packet (R33): `LidarSpeed` carries nothing. -/
inductive Packet where
  | distance (d : Distance)
  | lidarSpeed
  deriving DecidableEq, Repr

/-- The framing errors (R161 to R163). -/
inductive FrameError where
  | invalidHeader (byte : Byte)
  | invalidLength (length : Word)
  | invalidChecksum (calculated received : Word)
  deriving DecidableEq, Repr

/-- The decode errors (R164 to R166). -/
inductive PacketError where
  | frameTooShort (len : Word)
  | unsupportedCommandByte (byte : Byte)
  | unexpectedFrameLength (actual expected : Word)
  deriving DecidableEq, Repr

/-- A Frame: the payload bytes only (R32). -/
structure Frame where
  payload : List Byte
  deriving DecidableEq, Repr

/-- The outcome of FSY for one byte (R100). -/
inductive FsyOutcome where
  | incomplete
  | finished (frame : Frame)
  | frameError (e : FrameError)
  deriving DecidableEq, Repr

/-- What PDX gives for a frame (R120). -/
inductive Decoded where
  | packet (p : Packet)
  | error (e : PacketError)
  deriving DecidableEq, Repr

/-- The result of one step of the block (R31). -/
inductive Result where
  | incomplete
  | packet (p : Packet)
  | frameError (e : FrameError)
  | packetError (e : PacketError)
  | ended
  deriving DecidableEq, Repr

/-- The payload buffer's memory: the stored bytes with their indices, lowest first (R25, R40). An index that
is not listed holds no byte. -/
abbrev Memory := List Host.Cell

/-- The whole state of an instance. -/
structure State where
  /-- The synchronizer state (R21). -/
  st      : SyncState
  /-- The checksum accumulator CSA (R22). -/
  ck      : Word
  /-- The declared frame length (R23). -/
  len     : Word
  /-- The high byte of the received checksum (R24). -/
  rxh     : Byte
  /-- The payload buffer (R25); its fill counter `cnt` is its length. -/
  buf     : Memory
  /-- The one result the block holds, that of the last step (R31, D21). -/
  result  : Option Result
  /-- `CLOSE` has ended the run (R143, R145). -/
  closed  : Bool
  /-- The model's own: the input events still to come, next first (notes/assumptions/3.md). -/
  pending : List Event
  /-- The model's own: which free values the dead registers take next (notes/assumptions/1.md). -/
  free    : Nat
  deriving DecidableEq, Repr

/-- The machine right after reset (R36, R191). `st` and the absence of a result are the spec's; the values
of the dead registers are DESIGN CHOICE (notes/assumptions/2.md, unsafe). -/
def State.reset : State where
  st      := .awaitingHeader
  ck      := 0
  len     := 0
  rxh     := 0
  buf     := []
  result  := none
  closed  := false
  pending := []
  free    := 0

/-- Why the machine stops. -/
inductive Fault where
  /-- Raised by every operation that takes an input event, on an instance whose run `CLOSE` has ended:
  "the instance has no successor state" (R143, R145, U12). Safe: nothing is claimed of later events. -/
  | runEnded
  deriving DecidableEq, Repr

/-- Why a step has no meaning. -/
inductive Refusal where
  /-- Raised by `exec` for an operation without a meaning; no arm raises it. Safe. -/
  | notModelled (mnemonic : String)
  /-- Raised by `step` where the next event's word is no operation. Safe; the selection table is total, so
  no state raises it (R62). -/
  | undecodable (e : DecodeError)
  deriving DecidableEq, Repr

end Sys2Proof.Machine
end

