-- ==== Sys2Proof/Machine/Operands.lean ====
section
/-! DEFINITION. How bytes become values (00_scope.md R8, 30_encoding.md R63 to R67), the fields of a payload,
and the accessors of the payload buffer. -/

namespace Sys2Proof.Machine

/-- `zext_16(b)` (R8). -/
def zext16 (b : Byte) : Word := b.setWidth 16

/-- `be16(hi, lo) = hi * 256 + lo` (R8, R41). -/
def be16 (hi lo : Byte) : Word := hi ++ lo

/-- Bits 15:8 of a word. -/
def hiByte (w : Word) : Byte := w.extractLsb' 8 8

/-- Bits 7:0 of a word. -/
def loByte (w : Word) : Byte := w.extractLsb' 0 8

/-- `w[15:8] <- b`, bits 7:0 kept. -/
def setHiByte (w : Word) (b : Byte) : Word := be16 b (loByte w)

/-! The payload buffer (R25). -/

/-- The canonical form: the listed indices are 0, 1, 2, … without a gap, so they rise strictly (R40). -/
def Memory.wf (m : Memory) : Bool := m.map Prod.fst == List.range m.length

/-- The empty buffer. -/
def Memory.empty : Memory := []

/-- The bytes of the buffer, in index order. -/
def Memory.contents (m : Memory) : List Byte := m.map Prod.snd

/-- `buf[a]`, the byte at index `a`; an index outside `0..|buf|-1` holds none (R45). -/
def Memory.read (m : Memory) (a : Nat) : Option Byte := (m.find? fun c => c.1 == a).map Prod.snd

/-- `MemWrite(|buf|, 1, b)`, the only store: append a byte (R9). -/
def Memory.append (m : Memory) (b : Byte) : Memory := m ++ [(m.length, b)]

/-- The buffer that holds exactly these bytes. -/
def Memory.ofBytes (bytes : List Byte) : Memory := bytes.foldl Memory.append Memory.empty

/-- `cnt = |buf|`, the fill counter (R25). -/
def State.cnt (s : State) : Nat := s.buf.length

/-! The samples of the Distance command data (R66). -/

/-- Whole triples (signal, dist_hi, dist_lo), in wire order; the signal byte is discarded, and one or two
leftover bytes are dropped (R128). -/
def samples : List Byte → List Word
  | _signal :: distHi :: distLo :: rest => be16 distHi distLo :: samples rest
  | _ => []

/-! Selection from the state (R21, R61, R62). -/

/-- The 3-bit code of `st` (R21). -/
def SyncState.code : SyncState → BitVec 3
  | .awaitingHeader => 0
  | .awaitingLengthByte1 => 1
  | .awaitingLengthByte2 => 2
  | .accumulatingPayload => 3
  | .awaitingChecksumByte1 => 4
  | .awaitingChecksumByte2 => 5

/-- The state with a code; 6 and 7 have none (R21). -/
def SyncState.ofCode (c : BitVec 3) : Option SyncState :=
  if c = 0 then some .awaitingHeader
  else if c = 1 then some .awaitingLengthByte1
  else if c = 2 then some .awaitingLengthByte2
  else if c = 3 then some .accumulatingPayload
  else if c = 4 then some .awaitingChecksumByte1
  else if c = 5 then some .awaitingChecksumByte2
  else none

/-- The 2-bit code of an event (R61). -/
def eventCode : Event → BitVec 2
  | .idle => 0
  | .byte _ => 1
  | .reset => 2
  | .close => 3

/-- The word an event presents to the selection: a byte makes the key with `st`, any other event is its
code (R61, R62). -/
def selectWord (st : SyncState) : Event → OpWord
  | .byte b => .sb (mkKey st.code b)
  | .idle => .ev (eventCode .idle)
  | .reset => .ev (eventCode .reset)
  | .close => .ev (eventCode .close)

end Sys2Proof.Machine
end

