-- ==== Sys2Proof/Machine/Flags.lean ====
section
/-! DEFINITION. The block has no flags (10_state.md R30). Here stand the conditions its operations test, each
once, and the arithmetic of the checksum (40_checksum.md). -/

namespace Sys2Proof.Machine

/-- `CK_INIT` (R91). -/
def ckInit (b : Byte) : Word := zext16 b

/-- `CK_FOLD` (R92): wrapping addition, nothing kept of the overflow. -/
def ckFold (c : Word) (b : Byte) : Word := add16 c (zext16 b)

/-- `CK_SUM` (R93): fold left from zero. -/
def ckSum (bytes : List Byte) : Word := bytes.foldl ckFold 0

/-- "declared length < 6 is rejected" (R104). -/
def lengthRejected (l : Word) : Bool := decide (l.toNat < Config.lenMin)

/-- `|nb| + 3 == len`, with `n` bytes in the buffer after the append (R105). -/
def payloadComplete (n : Nat) (len : Word) : Bool := n + Config.lenOverhead == len.toNat

/-- Equality of the received and the computed checksum, all 16 bits (R107). -/
def checksumMatches (received computed : Word) : Bool := received == computed

end Sys2Proof.Machine
end

