-- ==== Sys2Proof/Machine/Ops.lean ====
section
/-! DEFINITION. The shared operations over the state: its named updates, the end of a frame, raising an error
(60_exceptions.md R171), giving a result, and taking an event. -/

namespace Sys2Proof.Machine

/-- The outcome of one operation. -/
abbrev StepOutcome := Host.Outcome State Fault Refusal

def State.setSt (s : State) (v : SyncState) : State := { s with st := v }
def State.setCk (s : State) (v : Word) : State := { s with ck := v }
def State.setLen (s : State) (v : Word) : State := { s with len := v }
def State.setRxh (s : State) (v : Byte) : State := { s with rxh := v }
def State.setBuf (s : State) (v : Memory) : State := { s with buf := v }
def State.setResult (s : State) (v : Result) : State := { s with result := some v }
def State.setClosed (s : State) (v : Bool) : State := { s with closed := v }
def State.setPending (s : State) (v : List Event) : State := { s with pending := v }

/-- `ck`, `len`, `rxh` and `buf` become dead: each takes a free value, the buffer one of at most `BUF_CAP`
bytes (R27; notes/assumptions/1.md). -/
def State.killRegisters (s : State) : State :=
  { s with
    ck := Config.freeCk s.free
    len := Config.freeLen s.free
    rxh := Config.freeRxh s.free
    buf := Memory.ofBytes ((Config.freeBuf s.free).take Config.bufCap)
    free := s.free + 1 }

/-- `st <- AwaitingHeader`, after which the other registers are dead (R104, R107, R109). In AwaitingHeader
they already are, and nothing changes (R109: "`RESET` in state `AH` changes nothing"). -/
def State.endFrame (s : State) : State :=
  match s.st with
  | .awaitingHeader => s
  | _ => s.killRegisters.setSt .awaitingHeader

/-- Raising a framing error, this block's exception entry (R171): the error with its operands is what the
step gives, `st` becomes AwaitingHeader, the other registers are dead, nothing is saved and there is no
handler. There is no return operation (R173): the next event is an ordinary step in AwaitingHeader. -/
def raiseError (e : FrameError) (s : State) : State × FsyOutcome :=
  (s.endFrame, .frameError e)

/-- A decode as a result of the block (R140): passed through unchanged. -/
def resultOfDecoded : Decoded → Result
  | .packet p => .packet p
  | .error e => .packetError e

/-- The operations that take an input event: after `CLOSE` the instance takes none (R143, R145, U12). -/
def acceptEvent (s : State) (k : State → StepOutcome) : StepOutcome :=
  if s.closed then .fault .runEnded else k s

/-- The position in the wire frame, which plays the program counter's role (R29). -/
def State.pos (s : State) : Nat :=
  match s.st with
  | .awaitingHeader => 0
  | .awaitingLengthByte1 => 1
  | .awaitingLengthByte2 => 2
  | .accumulatingPayload => 3 + s.cnt
  | .awaitingChecksumByte1 => s.len.toNat
  | .awaitingChecksumByte2 => s.len.toNat + 1

end Sys2Proof.Machine
end

