-- ==== Sys2Proof/Machine/Pdx.lean ====
section
/-! DEFINITION. The packet demultiplexer and decoder (42_packet_decode.md): a pure function of a payload
(R120), and its operations executed on their own, whose value is the result (43_stream_composition.md
R140). -/

namespace Sys2Proof.Machine

/-- The number of bytes as a `u16` operand of a decode error (R167). -/
def count16 (n : Nat) : Word := BitVec.ofNat 16 n

/-- `CMD_DIST` (R123). The pattern of the first arm is `n ≥ 5` (R124), its inner pattern `n ≥ 7` (R126):
no byte outside the data is read (R45). -/
def cmdDist (data : List Byte) : Decoded :=
  match data with
  | effHi :: effLo :: speed :: offHi :: offLo :: rest =>
    if (be16 effHi effLo).toNat ≠ data.length - 2 then
      .error (.unexpectedFrameLength (count16 (data.length - 2)) (be16 effHi effLo))
    else
      match rest with
      | stHi :: stLo :: triples =>
        .packet (.distance
          { speedRaw := speed
            startRaw := be16 stHi stLo
            offsetRaw := be16 offHi offLo
            distRaw := samples triples })
      | _ => .error (.frameTooShort (count16 data.length))
  | _ => .error (.frameTooShort (count16 data.length))

/-- `CMD_SPEED` (R129): the data is not read. -/
def cmdSpeed (_data : List Byte) : Decoded := .packet .lidarSpeed

/-- `CMD_UNSUP` (R130). -/
def cmdUnsup (selector : Byte) : Decoded := .error (.unsupportedCommandByte selector)

/-- `DEMUX` (R122, R131): the version byte is not looked at (R121). -/
def demux (payload : List Byte) : Decoded :=
  match payload with
  | _version :: selector :: data =>
    if selector = Config.selDistance then cmdDist data
    else if selector = Config.selLidarSpeed then cmdSpeed data
    else cmdUnsup selector
  | _ => .error (.frameTooShort (count16 payload.length))

/-- `CMD_DIST` on its own: no register is read or written (R120). -/
def execCmdDist (data : List Byte) (s : State) : StepOutcome :=
  .next (s.setResult (resultOfDecoded (cmdDist data)))

/-- `CMD_SPEED` on its own. -/
def execCmdSpeed (data : List Byte) (s : State) : StepOutcome :=
  .next (s.setResult (resultOfDecoded (cmdSpeed data)))

/-- `CMD_UNSUP` on its own. -/
def execCmdUnsup (selector : Byte) (s : State) : StepOutcome :=
  .next (s.setResult (resultOfDecoded (cmdUnsup selector)))

/-- `DEMUX` on its own. -/
def execDemux (payload : List Byte) (s : State) : StepOutcome :=
  .next (s.setResult (resultOfDecoded (demux payload)))

end Sys2Proof.Machine
end

