-- ==== Sys2Proof/Machine/Fsy.lean ====
section
/-! DEFINITION. The frame synchronizer (41_frame_sync.md): for each operation on a byte, the next state and
FSY's own outcome (R100); `consume`; and the operations as steps of the block, which run PDX when a frame
finishes (43_stream_composition.md R140). -/

namespace Sys2Proof.Machine

/-- `HDR` (R101). -/
def fsyHdr (b : Byte) (s : State) : State × FsyOutcome :=
  ((s.setCk (ckInit b)).setSt .awaitingLengthByte1, .incomplete)

/-- `HDR_REJ` (R102). -/
def fsyHdrRej (b : Byte) (s : State) : State × FsyOutcome :=
  raiseError (.invalidHeader b) s

/-- `LEN_HI` (R103). -/
def fsyLenHi (b : Byte) (s : State) : State × FsyOutcome :=
  (((s.setLen (setHiByte s.len b)).setCk (ckFold s.ck b)).setSt .awaitingLengthByte2, .incomplete)

/-- `LEN_LO` (R104). -/
def fsyLenLo (b : Byte) (s : State) : State × FsyOutcome :=
  let l := be16 (hiByte s.len) b
  if lengthRejected l then raiseError (.invalidLength l) s
  else
    ((((s.setLen l).setCk (ckFold s.ck b)).setBuf Memory.empty).setSt .accumulatingPayload, .incomplete)

/-- `PAY` (R105). -/
def fsyPay (b : Byte) (s : State) : State × FsyOutcome :=
  let nb := s.buf.append b
  (((s.setBuf nb).setCk (ckFold s.ck b)).setSt
    (if payloadComplete nb.length s.len then .awaitingChecksumByte1 else .accumulatingPayload),
   .incomplete)

/-- `CKB_HI` (R106). -/
def fsyCkbHi (b : Byte) (s : State) : State × FsyOutcome :=
  ((s.setRxh b).setSt .awaitingChecksumByte2, .incomplete)

/-- `CKB_LO` (R107): the frame's payload is the buffer as it stood at the start of the step. -/
def fsyCkbLo (b : Byte) (s : State) : State × FsyOutcome :=
  let rx := be16 s.rxh b
  if checksumMatches rx s.ck then (s.endFrame, .finished { payload := s.buf.contents })
  else raiseError (.invalidChecksum s.ck rx) s

/-- `consume(b)`, the step function of FSY (R100). -/
def consume (b : Byte) (s : State) : State × FsyOutcome :=
  match s.st with
  | .awaitingHeader => if b = Config.header then fsyHdr b s else fsyHdrRej b s
  | .awaitingLengthByte1 => fsyLenHi b s
  | .awaitingLengthByte2 => fsyLenLo b s
  | .accumulatingPayload => fsyPay b s
  | .awaitingChecksumByte1 => fsyCkbHi b s
  | .awaitingChecksumByte2 => fsyCkbLo b s

/-- The result of the block for an outcome of FSY (R140): a finished frame is decoded in the same step. -/
def resultOfFsy : FsyOutcome → Result
  | .incomplete => .incomplete
  | .finished frame => resultOfDecoded (demux frame.payload)
  | .frameError e => .frameError e

/-- The end of a step on a byte: the next state, with the result the block gives. -/
def deliver (r : State × FsyOutcome) : StepOutcome := .next (r.1.setResult (resultOfFsy r.2))

/-- `HDR` (R101). -/
def execHdr (b : Byte) (s : State) : StepOutcome := acceptEvent s fun s => deliver (fsyHdr b s)

/-- `HDR_REJ` (R102). -/
def execHdrRej (b : Byte) (s : State) : StepOutcome := acceptEvent s fun s => deliver (fsyHdrRej b s)

/-- `LEN_HI` (R103). -/
def execLenHi (b : Byte) (s : State) : StepOutcome := acceptEvent s fun s => deliver (fsyLenHi b s)

/-- `LEN_LO` (R104). -/
def execLenLo (b : Byte) (s : State) : StepOutcome := acceptEvent s fun s => deliver (fsyLenLo b s)

/-- `PAY` (R105). -/
def execPay (b : Byte) (s : State) : StepOutcome := acceptEvent s fun s => deliver (fsyPay b s)

/-- `CKB_HI` (R106). -/
def execCkbHi (b : Byte) (s : State) : StepOutcome := acceptEvent s fun s => deliver (fsyCkbHi b s)

/-- `CKB_LO` (R107), with PDX on a match (R140). -/
def execCkbLo (b : Byte) (s : State) : StepOutcome := acceptEvent s fun s => deliver (fsyCkbLo b s)

end Sys2Proof.Machine
end

