-- ==== Sys2Proof/Machine/Compose.lean ====
section
/-! DEFINITION. The other events (41_frame_sync.md R108, R109; 43_stream_composition.md R145) and the composed
step of the block (R140). -/

namespace Sys2Proof.Machine

/-- `IDLE` (R108): every register unchanged. -/
def idleEvent (s : State) : State := s.setResult .incomplete

/-- `RESET` (R109). -/
def resetEvent (s : State) : State := s.endFrame.setResult .incomplete

/-- `CLOSE` (R145): the run ends; a frame in progress is dropped without an error. -/
def closeEvent (s : State) : State := (s.setClosed true).setResult .ended

/-- `IDLE` (R108). -/
def execIdle (s : State) : StepOutcome := acceptEvent s fun s => .next (idleEvent s)

/-- `RESET` (R109). -/
def execReset (s : State) : StepOutcome := acceptEvent s fun s => .next (resetEvent s)

/-- `CLOSE` (R145). -/
def execClose (s : State) : StepOutcome := acceptEvent s fun s => .next (closeEvent s)

/-- `STEP(event)` (R140): it dispatches on the kind of the event, and for a byte on the state as `consume`
does (R100). -/
def execStepEvent (e : Event) (s : State) : StepOutcome :=
  acceptEvent s fun s =>
    match e with
    | .idle => .next (idleEvent s)
    | .reset => .next (resetEvent s)
    | .close => .next (closeEvent s)
    | .byte b => deliver (consume b s)

end Sys2Proof.Machine
end

