-- ==== Sys2Proof/Machine/Csa.lean ====
section
/-! DEFINITION. The checksum accumulator's operations executed on their own (40_checksum.md). The CSA is the
register `ck` (10_state.md R20): the value goes there (notes/assumptions/7.md, DESIGN CHOICE). -/

namespace Sys2Proof.Machine

/-- `CK_INIT` (R91). -/
def execCkInit (b : Byte) (s : State) : StepOutcome := .next (s.setCk (ckInit b))

/-- `CK_FOLD` (R92). -/
def execCkFold (c : Word) (b : Byte) (s : State) : StepOutcome := .next (s.setCk (ckFold c b))

/-- `CK_SUM` (R93). -/
def execCkSum (bytes : List Byte) (s : State) : StepOutcome := .next (s.setCk (ckSum bytes))

end Sys2Proof.Machine
end

