-- ==== Sys2Proof/Machine/Dispatch.lean ====
section
/-! DEFINITION. One arm for each operation. -/

namespace Sys2Proof.Machine

def exec (i : Instr) (s : State) : Host.Outcome State Fault Refusal :=
  match i with
  | .hdr b => Sys2Proof.Machine.execHdr b s
  | .hdrRej b => Sys2Proof.Machine.execHdrRej b s
  | .lenHi b => Sys2Proof.Machine.execLenHi b s
  | .lenLo b => Sys2Proof.Machine.execLenLo b s
  | .pay b => Sys2Proof.Machine.execPay b s
  | .ckbHi b => Sys2Proof.Machine.execCkbHi b s
  | .ckbLo b => Sys2Proof.Machine.execCkbLo b s
  | .idle => Sys2Proof.Machine.execIdle s
  | .reset => Sys2Proof.Machine.execReset s
  | .close => Sys2Proof.Machine.execClose s
  | .cmdDist data => Sys2Proof.Machine.execCmdDist data s
  | .cmdSpeed data => Sys2Proof.Machine.execCmdSpeed data s
  | .cmdUnsup sel => Sys2Proof.Machine.execCmdUnsup sel s
  | .demux payload => Sys2Proof.Machine.execDemux payload s
  | .ckInit b => Sys2Proof.Machine.execCkInit b s
  | .ckFold c b => Sys2Proof.Machine.execCkFold c b s
  | .ckSum bytes => Sys2Proof.Machine.execCkSum bytes s
  | .stepEvent e => Sys2Proof.Machine.execStepEvent e s

end Sys2Proof.Machine
end

