-- ==== Sys2Proof/Machine/Fetch.lean ====
section
/-! DEFINITION. Where the next operation comes from: the next input event, and the word it selects with the
state (30_encoding.md R61, R62); and how a table word is put there (notes/assumptions/3.md, 8.md). -/

namespace Sys2Proof.Machine

/-- The next event, and the state without it. Where the host presents nothing, the link is idle: "An idle
link is an endless sequence of `IDLE` events" (R185, R108). -/
def nextEvent (s : State) : Event × State :=
  match s.pending with
  | [] => (.idle, s)
  | e :: rest => (e, s.setPending rest)

/-- The next operation word, and the state without its event. -/
def fetch (s : State) : OpWord × State :=
  let (e, s') := nextEvent s
  (selectWord s.st e, s')

/-- An event put before those still to come, on an instance that takes events. -/
def presentFirst (e : Event) (s : State) : State :=
  (s.setPending (e :: s.pending)).setClosed false

/-- The event that an EV code names. -/
def eventOfCode (c : BitVec 2) : Event :=
  if c = 0 then .idle else if c = 2 then .reset else .close

/-- A table word put where the next step takes its operation from. An SB word sets `st` and presents the
byte; an EV word presents the event; a SEL word stands in a finished frame whose second checksum byte comes
next and matches, since PDX operations run inside that step (R122, R140). -/
def placeWord (s : State) (nbits w : Nat) : State :=
  match tableWord nbits w with
  | some (.sb key) =>
    match SyncState.ofCode (keyState key) with
    | some st => presentFirst (.byte (keyByte key)) (s.setSt st)
    | none => s
  | some (.ev c) => presentFirst (eventOfCode c) s
  | some (.sel selector data) =>
    presentFirst (.byte (loByte s.ck))
      (((s.setSt .awaitingChecksumByte2).setRxh (hiByte s.ck)).setBuf
        (Memory.ofBytes (0 :: selector :: data)))
  | none => s

end Sys2Proof.Machine
end

