-- ==== Sys2Proof/Machine/Step.lean ====
section
/-! DEFINITION. One step: take the next event, decode the word it selects, run the operation. -/

namespace Sys2Proof.Machine

/-- One step of the machine (43_stream_composition.md R140, by way of the selection table of 30_encoding.md
R62). -/
def step (s : State) : Host.Outcome State Fault Refusal :=
  match decodeWord (fetch s).1 with
  | .ok i => exec i (fetch s).2
  | .error e => .refused (.undecodable e)

/-- `s` with a table row's word where the next step takes its operation from. -/
def State.withFetchWord (s : State) (nbits w : Nat) : State :=
  Sys2Proof.Machine.placeWord s nbits w

end Sys2Proof.Machine
end

