-- ==== Sys2Proof/Machine/Codes.lean ====
section
/-! DEFINITION. The spec's own numbers for errors and results (60_exceptions.md R167, 30_encoding.md R76) and
the exact values of the decoded counts (00_scope.md R10, 10_state.md R33). -/

namespace Sys2Proof.Machine

/-- Cause codes of the framing errors (R167). -/
def FrameError.causeCode : FrameError → Nat
  | .invalidHeader _ => 1
  | .invalidLength _ => 2
  | .invalidChecksum _ _ => 3

/-- Cause codes of the decode errors (R167). -/
def PacketError.causeCode : PacketError → Nat
  | .frameTooShort _ => 4
  | .unsupportedCommandByte _ => 5
  | .unexpectedFrameLength _ _ => 6

/-- The kind code of a packet (R76). -/
def Packet.kindCode : Packet → Nat
  | .distance _ => 1
  | .lidarSpeed => 2

/-- The 4-bit kind code of a result: `8 + c` for the error with cause code `c` (R76). -/
def Result.kindCode : Result → BitVec 4
  | .incomplete => 0
  | .packet p => BitVec.ofNat 4 p.kindCode
  | .ended => 3
  | .frameError e => BitVec.ofNat 4 (8 + e.causeCode)
  | .packetError e => BitVec.ofNat 4 (8 + e.causeCode)

/-- `radar_speed = speed_raw / 20` degrees per second (R33). -/
def Distance.radarSpeed (d : Distance) : ℚ := (d.speedRaw.toNat : ℚ) / Config.speedPerUnit

/-- `start_angle = start_raw / 100` degrees (R33). -/
def Distance.startAngle (d : Distance) : ℚ := (d.startRaw.toNat : ℚ) / Config.anglePerUnit

/-- `offset_angle = offset_raw / 100` degrees (R33). -/
def Distance.offsetAngle (d : Distance) : ℚ := (d.offsetRaw.toNat : ℚ) / Config.anglePerUnit

/-- `distance[i] = dist_raw[i] / 4` millimetres (R33). -/
def Distance.distances (d : Distance) : List ℚ :=
  d.distRaw.map fun r => (r.toNat : ℚ) / Config.distPerUnit

end Sys2Proof.Machine
end

