-- ==== Sys2Proof/Machine/Wire.lean ====
section
/-! DEFINITION. The wire format of a frame (30_encoding.md R63, R71 to R73). -/

namespace Sys2Proof.Machine

/-- The checksummed span of the frame with payload `P`: header, length, payload (R71). -/
def wireSpan (payload : List Byte) : List Byte :=
  let l : Word := BitVec.ofNat 16 (payload.length + Config.lenOverhead)
  Config.header :: hiByte l :: loByte l :: payload

/-- A span followed by a checksum, high byte first (R63). -/
def withChecksum (span : List Byte) (c : Word) : List Byte := span ++ [hiByte c, loByte c]

/-- The wire frame with payload `P` (R71). -/
def wireFrame (payload : List Byte) : List Byte :=
  withChecksum (wireSpan payload) (ckSum (wireSpan payload))

/-- The declared length of a wire frame, `be16(w[1], w[2])`; none where the frame has no length bytes. -/
def declaredLength (w : List Byte) : Option Nat :=
  match w with
  | _ :: lenHi :: lenLo :: _ => some (be16 lenHi lenLo).toNat
  | _ => none

/-- The span of the first `l` bytes is followed by exactly its checksum (R72). -/
def checksumFollows (w : List Byte) (l : Nat) : Bool :=
  match w.drop l with
  | [ckHi, ckLo] => be16 ckHi ckLo == ckSum (w.take l)
  | _ => false

/-- `WF(w)`, a well-formed wire frame (R72). -/
def wellFormedFrame (w : List Byte) : Bool :=
  match declaredLength w with
  | some l =>
    w.head? == some Config.header && decide (Config.lenMin ≤ l) && w.length == l + Config.ckBytes
      && checksumFollows w l
  | none => false

/-- `w[3..L]`, the payload of a wire frame (R63, R112). -/
def framePayload (w : List Byte) : List Byte :=
  (w.take (w.length - Config.ckBytes)).drop Config.lenOverhead

/-- `WFD(w)`, a well-formed Distance frame (R73). -/
def wellFormedDistance (w : List Byte) : Bool :=
  wellFormedFrame w &&
    match framePayload w with
    | _version :: selector :: effHi :: effLo :: rest =>
      selector == Config.selDistance && decide (Config.distFixed ≤ rest.length + 2)
        && (be16 effHi effLo).toNat == rest.length
    | _ => false

end Sys2Proof.Machine
end

