-- ==== Sys2Proof/Machine/Run.lean ====
section
/-! DEFINITION. Runs, finite and endless (43_stream_composition.md R143), what the host does with a result (R147), and the textual
notation of input sequences (30_encoding.md R74). -/

namespace Sys2Proof.Machine

/-- A run over an event sequence: the results, one for each event taken, and the state it ends in. It stops
where an event finds no successor state (R143). -/
def run : List Event → State → List Result × State
  | [], s => ([], s)
  | e :: rest, s =>
    match execStepEvent e s with
    | .next s' => (s'.result.toList ++ (run rest s').1, (run rest s').2)
    | _ => ([], s)

/-- The trace of a run (R143). -/
def trace (events : List Event) (s : State) : List Result := (run events s).1

/-- A run over bytes. -/
def bytesRun (bytes : List Byte) (s : State) : List Result × State := run (bytes.map Event.byte) s

/-- What the consumer observes of a trace: the Packets in order, then `End` (R143). -/
def packetStream (results : List Result) : List Result :=
  results.filter fun
    | .packet _ | .ended => true
    | .incomplete | .frameError _ | .packetError _ => false

/-- What the log receives (R143). -/
def logStream (results : List Result) : List Result :=
  results.filter fun
    | .frameError _ | .packetError _ => true
    | .incomplete | .packet _ | .ended => false

/-! Runs that do not end: R143 lets the event sequence be infinite. -/

/-- The first `n` events of an endless sequence. -/
def firstEvents (events : Nat → Event) (n : Nat) : List Event := (List.range n).map events

/-- The state after `n` events of an endless sequence; none once the run has ended. -/
def endlessState (events : Nat → Event) (s : State) : Nat → Option State
  | 0 => some s
  | n + 1 =>
    match endlessState events s n with
    | none => none
    | some t =>
      match execStepEvent (events n) t with
      | .next t' => some t'
      | _ => none

/-- The trace of a run over an endless sequence: the result of its event number `n`, none once the run has
ended (R143). -/
def endlessTrace (events : Nat → Event) (s : State) (n : Nat) : Option Result :=
  (endlessState events s (n + 1)).bind State.result

/-- The results of the first `n` events of an endless run. -/
def endlessResults (events : Nat → Event) (s : State) (n : Nat) : List Result :=
  (List.range n).filterMap (endlessTrace events s)

/-- What the consumer has observed of an endless run after `n` events: the packet stream is what these grow to
(R143). -/
def endlessPackets (events : Nat → Event) (s : State) (n : Nat) : List Result :=
  packetStream (endlessResults events s n)

/-- What the log has received of an endless run after `n` events (R143). -/
def endlessLog (events : Nat → Event) (s : State) (n : Nat) : List Result :=
  logStream (endlessResults events s n)

/-- What the host does with a result (R147). -/
inductive HostAction where
  | nothing
  | publish (p : Packet)
  | logFrameError (e : FrameError)
  | logPacketError (e : PacketError)
  | closeQueue
  deriving DecidableEq, Repr

/-- The table of R147. -/
def hostAction : Result → HostAction
  | .incomplete => .nothing
  | .packet p => .publish p
  | .frameError e => .logFrameError e
  | .packetError e => .logPacketError e
  | .ended => .closeQueue

/-- The items of the textual notation (R74). -/
inductive Item where
  | bytes (bs : List Byte)
  | idle
  | reset
  | close
  | frame (version selector : Byte) (data : List Byte)
  | frameBadck (version selector : Byte) (data : List Byte)
  | distance (version speed : Byte) (offset start : Word) (sampled : List (Byte × Word))
  | speed (version : Byte) (data : List Byte)
  deriving DecidableEq, Repr

/-- The payload of a `distance` item: `eff = 5 + 3k` (R74). -/
def distancePayload (version speed : Byte) (offset start : Word) (sampled : List (Byte × Word)) :
    List Byte :=
  let eff : Word := BitVec.ofNat 16 (5 + Config.sampleBytes * sampled.length)
  [version, Config.selDistance, hiByte eff, loByte eff, speed, hiByte offset, loByte offset,
    hiByte start, loByte start]
    ++ sampled.flatMap fun x => [x.1, hiByte x.2, loByte x.2]

/-- The expansion of an item into input events (R74). -/
def Item.expand : Item → List Event
  | .bytes bs => bs.map .byte
  | .idle => [.idle]
  | .reset => [.reset]
  | .close => [.close]
  | .frame version selector data => (wireFrame (version :: selector :: data)).map .byte
  | .frameBadck version selector data =>
    let span := wireSpan (version :: selector :: data)
    (withChecksum span (add16 (ckSum span) 1)).map .byte
  | .distance version speedRaw offset start sampled =>
    (wireFrame (distancePayload version speedRaw offset start sampled)).map .byte
  | .speed version data => (wireFrame (version :: Config.selLidarSpeed :: data)).map .byte

end Sys2Proof.Machine
end

