-- ==== Sys2Proof/Machine/HostSide.lean ====
section
/-! DEFINITION. The host at the block's boundary, as far as the spec settles it (43_stream_composition.md R146 to
R150), over the open parameters (00_scope.md R6; notes/assumptions/24.md). The block's step reads none of
this. -/

namespace Sys2Proof.Machine

/-! Presenting events (R146, R148). -/

/-- What one turn of the producer loop finds. -/
inductive ProducerTurn where
  | byteRead (b : Byte)
  | readTimedOut
  | transientFailure
  | linkClosed
  | consumerDropped
  | resetWanted
  deriving DecidableEq, Repr

/-- The event a turn presents (R146; `RESET` and a dropped consumer: R148). -/
def eventOfTurn : ProducerTurn → Event
  | .byteRead b => .byte b
  | .readTimedOut | .transientFailure => .idle
  | .linkClosed | .consumerDropped => .close
  | .resetWanted => .reset

/-- A turn, and how long its read of the link lasted, in seconds. -/
structure TimedTurn where
  turn    : ProducerTurn
  seconds : ℚ
  deriving DecidableEq, Repr

/-- "reads are individually bounded by a short timeout" (R148): no turn outlasts `READ_TIMEOUT`, and one that
times out lasts all of it. -/
def TimedTurn.Bounded (p : Config.OpenParams) (t : TimedTurn) : Prop :=
  0 ≤ t.seconds ∧ t.seconds ≤ p.readTimeout ∧ (t.turn = .readTimedOut → t.seconds = p.readTimeout)

/-! The hand-off queue and its consumer (R149, R150). -/

/-- The Packets not yet consumed, first completed first, and the closed signal. -/
structure HandOff where
  waiting : List Packet
  closed  : Bool
  deriving DecidableEq, Repr

/-- Whether the queue takes one more Packet. -/
def HandOff.hasRoom (p : Config.OpenParams) (q : HandOff) : Bool :=
  match p.queueDepth with
  | none => true
  | some depth => decide (q.waiting.length < depth)

/-- What a result does to the queue (R147). None where the queue is full: "the source does not fix [...] what
the producer does when it is full" (R149). -/
def HandOff.take (p : Config.OpenParams) (q : HandOff) (r : Result) : Option HandOff :=
  match hostAction r with
  | .nothing | .logFrameError _ | .logPacketError _ => some q
  | .publish packet =>
    if q.hasRoom p then some { q with waiting := q.waiting ++ [packet] } else none
  | .closeQueue => some { q with closed := true }

/-- What a trace does to the queue while nothing is consumed. -/
def HandOff.takeAll (p : Config.OpenParams) (q : HandOff) : List Result → Option HandOff
  | [] => some q
  | r :: rest =>
    match q.take p r with
    | some q' => q'.takeAll p rest
    | none => none

/-- What the consumer's one operation gives (R150). -/
inductive ConsumerView where
  | packet (packet : Packet)
  | suspended
  | exhausted
  deriving DecidableEq, Repr

/-- The consumer's operation: the oldest Packet; with none, exhaustion once the producer has terminated, for
good, and until then the consumer is suspended (R150). -/
def HandOff.consume (q : HandOff) : ConsumerView × HandOff :=
  match q.waiting with
  | packet :: rest => (.packet packet, { q with waiting := rest })
  | [] => (if q.closed then .exhausted else .suspended, q)

/-- The Packets of a trace. -/
def packetsOf (results : List Result) : List Packet :=
  results.filterMap fun
    | .packet packet => some packet
    | .incomplete | .frameError _ | .packetError _ | .ended => none

/-! Rendering (R10). -/

/-- A Distance packet's values in a floating-point format. -/
structure Rendered (fmt : Config.FloatFormat) where
  radarSpeed  : BitVec fmt.width
  startAngle  : BitVec fmt.width
  offsetAngle : BitVec fmt.width
  distances   : List (BitVec fmt.width)
  deriving DecidableEq, Repr

/-- Every rendering is a function of the exact values (R10, D13). -/
def Distance.render (p : Config.OpenParams) (d : Distance) : Rendered p.floatFmt where
  radarSpeed  := p.floatFmt.encode d.radarSpeed
  startAngle  := p.floatFmt.encode d.startAngle
  offsetAngle := p.floatFmt.encode d.offsetAngle
  distances   := d.distances.map p.floatFmt.encode

end Sys2Proof.Machine
end

