-- ==== Sys2Proof/Safety.lean ====
section
/-! DEFINITION. The invariant of the block (10_state.md R28), what two states have in common when they differ
in dead registers only (R26, R27), and what a step may be. -/

namespace Sys2Proof.Machine

/-- The header, length and payload bytes consumed so far in the current frame, as the live registers hold
them (R28's `w`). -/
def framePrefix (s : State) : List Byte :=
  match s.st with
  | .awaitingHeader => []
  | .awaitingLengthByte1 => [Config.header]
  | .awaitingLengthByte2 => [Config.header, hiByte s.len]
  | .accumulatingPayload | .awaitingChecksumByte1 | .awaitingChecksumByte2 =>
    Config.header :: hiByte s.len :: loByte s.len :: s.buf.contents

/-- How much of the payload each state has (R28): in AccumulatingPayload `|buf| ≤ len − 4`, in the checksum
states `|buf| = len − 3`; the declared length is at least 6. -/
def FillInv (s : State) : Prop :=
  match s.st with
  | .awaitingHeader | .awaitingLengthByte1 | .awaitingLengthByte2 => True
  | .accumulatingPayload => Config.lenMin ≤ s.len.toNat ∧ s.cnt + 4 ≤ s.len.toNat
  | .awaitingChecksumByte1 | .awaitingChecksumByte2 =>
    Config.lenMin ≤ s.len.toNat ∧ s.cnt + Config.lenOverhead = s.len.toNat

/-- In every state but AwaitingHeader, `ck` is the sum of the bytes consumed so far in the frame (R28). -/
def ChecksumInv (s : State) : Prop :=
  s.st ≠ .awaitingHeader → s.ck = ckSum (framePrefix s)

/-- The invariant: R28, with the buffer in canonical form and within its capacity (R25). -/
structure Inv (s : State) : Prop where
  canonical : s.buf.wf = true
  capacity  : s.cnt ≤ Config.bufCap
  fill      : FillInv s
  checksum  : ChecksumInv s

/-- Two states agree on the registers that are live (R26). -/
def LiveRegisters (s t : State) : Prop :=
  match s.st with
  | .awaitingHeader => True
  | .awaitingLengthByte1 => s.ck = t.ck
  | .awaitingLengthByte2 => s.ck = t.ck ∧ hiByte s.len = hiByte t.len
  | .accumulatingPayload => s.ck = t.ck ∧ s.len = t.len ∧ s.buf = t.buf
  | .awaitingChecksumByte1 => s.ck = t.ck ∧ s.buf = t.buf
  | .awaitingChecksumByte2 => s.ck = t.ck ∧ s.buf = t.buf ∧ s.rxh = t.rxh

/-- Two states are the same but for dead registers (R27) and the free-value count. -/
structure LiveEq (s t : State) : Prop where
  st        : s.st = t.st
  closed    : s.closed = t.closed
  pending   : s.pending = t.pending
  registers : LiveRegisters s t

/-- The operations that take an input event: the SB and EV rows, and `STEP` (R61, R75). -/
def takesEvent : Instr → Bool
  | .stepEvent _ => true
  | i => match i.format with
    | .sb | .ev => true
    | .sel | .internal => false

/-- A safe step: on an instance whose run has not ended the machine goes on, since errors are ordinary
results (R175). -/
def SafeStep (s : State) : Prop := s.closed = false → ∃ t, step s = .next t

end Sys2Proof.Machine
end

