-- ==== Sys2Proof/Certificates/Slice0/Obligations.lean ====
section
/-! DEFINITION. The statements about the block, for the provers. -/

open Sys2Proof Sys2Proof.Machine

/-! ### Reset and the step -/

/-- 10_state.md R36, 70_reset_and_hazards.md R191: after reset the state is AwaitingHeader, no result is
pending and the run has not ended. That no event waits is the model's choice (log entry 3). The values of the
dead registers are not part of this. -/
def Obligations.ResetAwaitsHeader : Prop :=
  State.reset.st = .awaitingHeader ∧ State.reset.result = none ∧ State.reset.closed = false ∧
    State.reset.pending = []

/-- The invariant of R28 holds after reset. -/
def Obligations.ResetSatisfiesInvariant : Prop := Inv State.reset

/-- A step takes the next event, decodes the word it selects with `st`, and runs that operation on the state
without the event; with no event pending the link is idle (60_exceptions.md R185; log entry 3). -/
def Obligations.StepRunsDecodedOperation : Prop :=
  ∀ s : State,
    (∀ e rest i, s.pending = e :: rest → decodeWord (selectWord s.st e) = .ok i →
      step s = exec i { s with pending := rest }) ∧
    (s.pending = [] → step s = exec .idle s)

/-- Words written out from the tables of 30_encoding.md R61, R62 and R69 decode to their operations (the
numbers are the spec's own decisions D2 and D3). -/
def Obligations.WrittenOutWordsDecode : Prop :=
  decodeWord (.sb 0x0AA) = .ok (.hdr 0xAA) ∧
  decodeWord (.sb 0x055) = .ok (.hdrRej 0x55) ∧
  decodeWord (.sb 0x1AA) = .ok (.lenHi 0xAA) ∧
  decodeWord (.sb 0x205) = .ok (.lenLo 0x05) ∧
  decodeWord (.sb 0x3FF) = .ok (.pay 0xFF) ∧
  decodeWord (.sb 0x400) = .ok (.ckbHi 0x00) ∧
  decodeWord (.sb 0x565) = .ok (.ckbLo 0x65) ∧
  decodeWord (.sb 0x6AA) = .error (.reservedStateCode 6) ∧
  decodeWord (.ev 0) = .ok .idle ∧
  decodeWord (.ev 1) = .error .byteEventNeedsKey ∧
  decodeWord (.ev 2) = .ok .reset ∧
  decodeWord (.ev 3) = .ok .close ∧
  decodeWord (.sel 0xAD [0x07]) = .ok (.cmdDist [0x07]) ∧
  decodeWord (.sel 0xAE []) = .ok (.cmdSpeed []) ∧
  decodeWord (.sel 0xAC [0x00]) = .ok (.cmdUnsup 0xAC)

/-- 30_encoding.md R61 and R62: every event in every state selects exactly one operation, the one of the
table (the key and the codes are the spec's decisions D2, D3). -/
def Obligations.EveryEventSelectsItsOperation : Prop :=
  ∀ (st : SyncState) (b : Byte),
    decodeWord (selectWord st (.byte b)) = .ok
      (match st with
        | .awaitingHeader => if b = 0xAA then .hdr b else .hdrRej b
        | .awaitingLengthByte1 => .lenHi b
        | .awaitingLengthByte2 => .lenLo b
        | .accumulatingPayload => .pay b
        | .awaitingChecksumByte1 => .ckbHi b
        | .awaitingChecksumByte2 => .ckbLo b) ∧
    decodeWord (selectWord st .idle) = .ok .idle ∧
    decodeWord (selectWord st .reset) = .ok .reset ∧
    decodeWord (selectWord st .close) = .ok .close

/-- 30_encoding.md R69: the selector byte selects the decode operation; the command data follow it. The
second clause is the table of the rule with its match and mask. -/
def Obligations.SelectorSelectsDecodeOperation : Prop :=
  (∀ (sel : Byte) (data : List Byte), data.length ≤ 65530 →
    decodeWord (.sel sel data) = .ok
      (if sel = 0xAD then .cmdDist data else if sel = 0xAE then .cmdSpeed data else .cmdUnsup sel)) ∧
  selRows = [⟨.cmdDist, 0xAD, 0xFF⟩, ⟨.cmdSpeed, 0xAE, 0xFF⟩, ⟨.cmdUnsup, 0x00, 0x00⟩]

/-- Decoding the encoded bytes of a well-formed operation gives it back, and every operation that has an
encoding (R75: all but the INTERNAL ones) is encoded. -/
def Obligations.DecodeOfEncodeIsIdentity : Prop :=
  ∀ i : Instr, i.wf = true →
    (i.format ≠ .internal → ∃ bytes, encode i = some bytes) ∧
    (∀ bytes, encode i = some bytes → decode i.format bytes = .ok i)

/-- What decodes is a well-formed operation of the format decoded, and it encodes to the bytes it came from;
`CMD_UNSUP`, whose only operand is the selector (R130), drops the command data. -/
def Obligations.DecodedBytesEncodeBack : Prop :=
  ∀ (fmt : Format) (bytes : List Byte) (i : Instr), decode fmt bytes = .ok i →
    i.format = fmt ∧ i.wf = true ∧
      (encode i = some bytes ∨ ∃ sel data, i = .cmdUnsup sel ∧ bytes = sel :: data)

/-- 43_stream_composition.md R140 and 41_frame_sync.md R100: `STEP` on an event completes on every instance
whose run has not ended, and gives what the operation gives that the selection table names. -/
def Obligations.StepEventRunsSelectedOperation : Prop :=
  ∀ (s : State) (e : Event) (i : Instr), s.closed = false → decodeWord (selectWord s.st e) = .ok i →
    ∃ t, exec (.stepEvent e) s = .next t ∧ exec i s = .next t

/-- 43_stream_composition.md R140: the result of a step on a byte is the outcome of FSY, with a finished frame
decoded in the same step (the spec's decision D7); the state is the one FSY leaves. -/
def Obligations.StepResultComposesFsyAndPdx : Prop :=
  ∀ (s : State) (b : Byte), s.closed = false →
    ∃ t, exec (.stepEvent (.byte b)) s = .next t ∧
      t = { (consume b s).1 with result := t.result } ∧
      (t.result = some (match (consume b s).2 with
        | .incomplete => .incomplete
        | .frameError e => .frameError e
        | .finished frame => match demux frame.payload with
          | .packet p => .packet p
          | .error e => .packetError e))

/-! ### The checksum accumulator -/

/-- 40_checksum.md R91, R92, R93: the values of the three operations. -/
def Obligations.ChecksumOperationValues : Prop :=
  (∀ b : Byte, (ckInit b).toNat = b.toNat) ∧
  (∀ (c : Word) (b : Byte), (ckFold c b).toNat = (c.toNat + b.toNat) % 65536) ∧
  ckSum [] = 0 ∧
  (∀ (bytes : List Byte) (b : Byte), ckSum (bytes ++ [b]) = ckFold (ckSum bytes) b) ∧
  (∀ bytes : List Byte, (ckSum bytes).toNat = (bytes.map BitVec.toNat).sum % 65536)

/-- 40_checksum.md R90 to R93: none of the three operations can fail. Executed on its own, each leaves its
value in `ck` (the model's choice, log entry 7) and changes nothing else. -/
def Obligations.ChecksumOperationsComplete : Prop :=
  ∀ (s : State) (c : Word) (b : Byte) (bytes : List Byte),
    (∃ t, exec (.ckInit b) s = .next t ∧ t.ck.toNat = b.toNat ∧ t = { s with ck := t.ck }) ∧
    (∃ t, exec (.ckFold c b) s = .next t ∧ t.ck.toNat = (c.toNat + b.toNat) % 65536 ∧
      t = { s with ck := t.ck }) ∧
    (∃ t, exec (.ckSum bytes) s = .next t ∧
      t.ck.toNat = (bytes.map BitVec.toNat).sum % 65536 ∧ t = { s with ck := t.ck })

/-- 40_checksum.md R94: seeding with the first byte and folding the rest is the sum of them all. -/
def Obligations.SeededFoldIsChecksum : Prop :=
  ∀ (b : Byte) (bytes : List Byte), bytes.foldl ckFold (ckInit b) = ckSum (b :: bytes)

/-- 40_checksum.md R95 (a) to (d). -/
def Obligations.ChecksumLaws : Prop :=
  (∀ a b : List Byte, a.Perm b → ckSum a = ckSum b) ∧
  (∀ a b : List Byte, ckSum (a ++ b) = add16 (ckSum a) (ckSum b)) ∧
  (∀ a b : List Byte, ckSum (a ++ 0 :: b) = ckSum (a ++ b)) ∧
  (∀ (a b : List Byte) (x y : Byte), x ≠ y →
    ckSum (a ++ y :: b) ≠ ckSum (a ++ x :: b) ∧
    ckSum (a ++ y :: b) - ckSum (a ++ x :: b) = zext16 y - zext16 x)

/-! ### The frame synchronizer: one statement for each operation on a byte -/

/-- 41_frame_sync.md R101. -/
def Obligations.HdrSeedsChecksum : Prop :=
  ∀ s : State, s.closed = false → s.st = .awaitingHeader →
    decodeWord (selectWord s.st (.byte 0xAA)) = .ok (.hdr 0xAA) ∧
    exec (.hdr 0xAA) s = .next
      { s with ck := 0x00AA, st := .awaitingLengthByte1, result := some .incomplete }

/-- 41_frame_sync.md R102: a byte that is no header is rejected, nothing but the result changes, and a run of
`m` such bytes gives `m` results. -/
def Obligations.HdrRejRejectsEachByte : Prop :=
  ∀ s : State, s.closed = false → s.st = .awaitingHeader →
    (∀ b : Byte, b ≠ 0xAA →
      decodeWord (selectWord s.st (.byte b)) = .ok (.hdrRej b) ∧
      exec (.hdrRej b) s = .next { s with result := some (.frameError (.invalidHeader b)) }) ∧
    (∀ bytes : List Byte, (∀ b ∈ bytes, b ≠ 0xAA) →
      (bytesRun bytes s).1 = bytes.map (fun b => .frameError (.invalidHeader b)) ∧
      (bytesRun bytes s).2 = { s with result := (bytesRun bytes s).2.result })

/-- 41_frame_sync.md R103. -/
def Obligations.LenHiTakesHighByte : Prop :=
  ∀ (s : State) (b : Byte), s.closed = false → s.st = .awaitingLengthByte1 →
    decodeWord (selectWord s.st (.byte b)) = .ok (.lenHi b) ∧
    ∃ t, exec (.lenHi b) s = .next t ∧
      t.len.toNat = b.toNat * 256 + s.len.toNat % 256 ∧
      t.ck.toNat = (s.ck.toNat + b.toNat) % 65536 ∧
      t = { s with len := t.len, ck := t.ck, st := .awaitingLengthByte2, result := some .incomplete }

/-- 41_frame_sync.md R104, a declared length of 6 or more. -/
def Obligations.LenLoAcceptsSixOrMore : Prop :=
  ∀ (s : State) (b : Byte), s.closed = false → s.st = .awaitingLengthByte2 →
    6 ≤ s.len.toNat / 256 * 256 + b.toNat →
    decodeWord (selectWord s.st (.byte b)) = .ok (.lenLo b) ∧
    ∃ t, exec (.lenLo b) s = .next t ∧
      t.len.toNat = s.len.toNat / 256 * 256 + b.toNat ∧
      t.ck.toNat = (s.ck.toNat + b.toNat) % 65536 ∧
      t.buf.contents = [] ∧ (∀ a, t.buf.read a = none) ∧
      t = { s with len := t.len, ck := t.ck, buf := t.buf, st := .accumulatingPayload,
                   result := some .incomplete }

/-- 41_frame_sync.md R104, a declared length below 6: the block itself returns to AwaitingHeader (the spec's
decision D5). `ck`, `len`, `rxh` and `buf` are dead; nothing is said of them. -/
def Obligations.LenLoRejectsBelowSix : Prop :=
  ∀ (s : State) (b : Byte), s.closed = false → s.st = .awaitingLengthByte2 →
    s.len.toNat / 256 * 256 + b.toNat < 6 →
    decodeWord (selectWord s.st (.byte b)) = .ok (.lenLo b) ∧
    ∃ t l, exec (.lenLo b) s = .next t ∧ t.st = .awaitingHeader ∧
      t.result = some (.frameError (.invalidLength l)) ∧
      l.toNat = s.len.toNat / 256 * 256 + b.toNat ∧
      t.closed = s.closed ∧ t.pending = s.pending

/-- 41_frame_sync.md R105: the byte is stored at index `cnt` and nowhere else, and folded in; the state is
left exactly when the payload is whole. The buffer is canonical in every state a run reaches
(ResetSatisfiesInvariant, StepKeepsInvariant); only the byte-by-byte clause needs that. -/
def Obligations.PayStoresByte : Prop :=
  ∀ (s : State) (b : Byte), s.closed = false → s.st = .accumulatingPayload →
    decodeWord (selectWord s.st (.byte b)) = .ok (.pay b) ∧
    ∃ t, exec (.pay b) s = .next t ∧
      t.buf.contents = s.buf.contents ++ [b] ∧ t.cnt = s.cnt + 1 ∧
      (s.buf.wf = true → t.buf.wf = true ∧ t.buf.read s.cnt = some b ∧
        ∀ a, a ≠ s.cnt → t.buf.read a = s.buf.read a) ∧
      t.ck.toNat = (s.ck.toNat + b.toNat) % 65536 ∧
      t.st = (if s.cnt + 1 + 3 = s.len.toNat then .awaitingChecksumByte1 else .accumulatingPayload) ∧
      t = { s with buf := t.buf, ck := t.ck, st := t.st, result := some .incomplete }

/-- 41_frame_sync.md R106. -/
def Obligations.CkbHiStoresHighByte : Prop :=
  ∀ (s : State) (b : Byte), s.closed = false → s.st = .awaitingChecksumByte1 →
    decodeWord (selectWord s.st (.byte b)) = .ok (.ckbHi b) ∧
    exec (.ckbHi b) s = .next
      { s with rxh := b, st := .awaitingChecksumByte2, result := some .incomplete }

/-- 41_frame_sync.md R107: FSY's outcome is the frame with the buffer's content when all 16 bits agree, and
`InvalidChecksum` when they do not; `st` is AwaitingHeader in both cases. The other registers are dead. -/
def Obligations.CkbLoJudgesFrame : Prop :=
  ∀ (s : State) (b : Byte), s.closed = false → s.st = .awaitingChecksumByte2 →
    decodeWord (selectWord s.st (.byte b)) = .ok (.ckbLo b) ∧
    (∃ t, exec (.ckbLo b) s = .next t ∧ t.st = .awaitingHeader ∧ t.closed = s.closed ∧
      t.pending = s.pending ∧
      (be16 s.rxh b ≠ s.ck →
        t.result = some (.frameError (.invalidChecksum s.ck (be16 s.rxh b))))) ∧
    (be16 s.rxh b).toNat = s.rxh.toNat * 256 + b.toNat ∧
    (consume b s).1.st = .awaitingHeader ∧
    (consume b s).2 = (if be16 s.rxh b = s.ck then .finished { payload := s.buf.contents }
      else .frameError (.invalidChecksum s.ck (be16 s.rxh b)))

/-- 43_stream_composition.md R140, 20_memory.md R52: on a match PDX decodes, in the same step (the spec's
decision D7), exactly the buffer's content at the start of the step. `DEMUX` executed on its own, whose result
is compared, gives its value as the result by the model's choice (log entry 7). -/
def Obligations.CkbLoDecodesFinishedFrame : Prop :=
  ∀ (s t : State) (b : Byte), s.closed = false → s.st = .awaitingChecksumByte2 → be16 s.rxh b = s.ck →
    exec (.demux s.buf.contents) s = .next t →
    ∃ t', exec (.ckbLo b) s = .next t' ∧ t'.result = t.result ∧ t'.st = .awaitingHeader ∧
      t'.closed = s.closed ∧ t'.pending = s.pending

/-! ### The other events -/

/-- 41_frame_sync.md R108 (the spec's decision D19): every register unchanged, in every state. -/
def Obligations.IdleChangesNothing : Prop :=
  ∀ s : State, s.closed = false → exec .idle s = .next { s with result := some .incomplete }

/-- 41_frame_sync.md R109 (the spec's decision D18): AwaitingHeader from every state, silently; in
AwaitingHeader nothing changes. The other registers are dead. -/
def Obligations.ResetReturnsToAwaitingHeader : Prop :=
  ∀ s : State, s.closed = false →
    ∃ t, exec .reset s = .next t ∧ t.st = .awaitingHeader ∧ t.result = some .incomplete ∧
      t.closed = s.closed ∧ t.pending = s.pending ∧
      (s.st = .awaitingHeader → t = { s with result := some .incomplete })

/-- 43_stream_composition.md R145 (the spec's decision D20): `End` from every state, with no error for a frame
in progress, and the run has ended. That `CLOSE` leaves `st`, `ck`, `len`, `rxh` and `buf` as they were is the
model's choice (log entry 19): the spec says the state no longer matters. -/
def Obligations.CloseEndsRun : Prop :=
  ∀ s : State, s.closed = false →
    exec .close s = .next { s with closed := true, result := some .ended }

/-- 43_stream_composition.md R143, R145, U12: after `CLOSE` an event has no successor state. -/
def Obligations.EventAfterCloseStops : Prop :=
  ∀ s : State, s.closed = true →
    (∀ i : Instr, takesEvent i = true → exec i s = .fault .runEnded) ∧ step s = .fault .runEnded

/-! ### The packet decoder -/

/-- 42_packet_decode.md R124, R125, R126 in their order (what the errors carry, and the third test, are the
spec's decisions D9, D10 and D11): `n` is the number of command data bytes. That the error goes to the result
when `CMD_DIST` is executed on its own is the model's choice (log entry 7). Only the result changes. -/
def Obligations.CmdDistErrorsInOrder : Prop :=
  ∀ (s : State) (data : List Byte), data.length ≤ 65530 →
    (data.length < 5 →
      exec (.cmdDist data) s = .next
        { s with result := some (.packetError (.frameTooShort (BitVec.ofNat 16 data.length))) }) ∧
    (5 ≤ data.length → (be16 (data.getD 0 0) (data.getD 1 0)).toNat ≠ data.length - 2 →
      exec (.cmdDist data) s = .next
        { s with result := some (.packetError (.unexpectedFrameLength
            (BitVec.ofNat 16 (data.length - 2)) (be16 (data.getD 0 0) (data.getD 1 0)))) }) ∧
    (5 ≤ data.length → data.length < 7 →
      (be16 (data.getD 0 0) (data.getD 1 0)).toNat = data.length - 2 →
      exec (.cmdDist data) s = .next
        { s with result := some (.packetError (.frameTooShort (BitVec.ofNat 16 data.length))) })

/-- 42_packet_decode.md R123, R127 (no range check: the spec's decision D24): with a whole fixed part and a
matching inner length the counts are the bytes at their offsets, the offset angle before the start angle. That
the packet goes to the result when `CMD_DIST` is executed on its own is the model's choice (log entry 7). Only the
result changes. -/
def Obligations.CmdDistDecodesFields : Prop :=
  ∀ (s : State) (data : List Byte), data.length ≤ 65530 → 7 ≤ data.length →
    (be16 (data.getD 0 0) (data.getD 1 0)).toNat = data.length - 2 →
    ∃ d : Distance,
      exec (.cmdDist data) s = .next { s with result := some (.packet (.distance d)) } ∧
      d.speedRaw = data.getD 2 0 ∧
      d.offsetRaw = be16 (data.getD 3 0) (data.getD 4 0) ∧
      d.startRaw = be16 (data.getD 5 0) (data.getD 6 0)

/-- 42_packet_decode.md R128: `k = (n − 7) div 3` samples in wire order, sample `i` from `data[8 + 3i]` and
`data[9 + 3i]`; the signal byte and one or two leftover bytes are dropped; at most 21841 samples. That the packet
goes to the result when `CMD_DIST` is executed on its own is the model's choice (log entry 7). Only the result
changes. -/
def Obligations.CmdDistDecodesWholeTriples : Prop :=
  ∀ (s : State) (data : List Byte), data.length ≤ 65530 → 7 ≤ data.length →
    (be16 (data.getD 0 0) (data.getD 1 0)).toNat = data.length - 2 →
    ∃ d : Distance, cmdDist data = .packet (.distance d) ∧
      exec (.cmdDist data) s = .next { s with result := some (.packet (.distance d)) } ∧
      d.distRaw.length = (data.length - 7) / 3 ∧ d.distRaw.length ≤ 21841 ∧
      ∀ i, i < (data.length - 7) / 3 →
        d.distRaw[i]? = some (be16 (data.getD (8 + 3 * i) 0) (data.getD (9 + 3 * i) 0))

/-- 42_packet_decode.md R129 (the spec's decision D8): `LidarSpeed` for every command data. That it goes to the
result when `CMD_SPEED` is executed on its own is the model's choice (log entry 7). -/
def Obligations.CmdSpeedGivesLidarSpeed : Prop :=
  ∀ (s : State) (data : List Byte),
    exec (.cmdSpeed data) s = .next { s with result := some (.packet .lidarSpeed) }

/-- 42_packet_decode.md R130: each selector but `0xAD` and `0xAE`, with any command data. That the error goes to the
result when `CMD_UNSUP` is executed on its own is the model's choice (log entry 7). -/
def Obligations.CmdUnsupReportsSelector : Prop :=
  ∀ (s : State) (sel : Byte) (data : List Byte), sel ≠ 0xAD → sel ≠ 0xAE → data.length ≤ 65530 →
    decodeWord (.sel sel data) = .ok (.cmdUnsup sel) ∧
    exec (.cmdUnsup sel) s = .next
      { s with result := some (.packetError (.unsupportedCommandByte sel)) }

/-- 42_packet_decode.md R122 and R131 (the spec's decisions D23 and D12): `DEMUX` completes on every payload;
with a selector it gives what the selected operation gives, whatever the version byte, and a payload without
one is too short. That its value goes to the result when it is executed on its own is the model's choice (log
entry 7). Only the result changes. -/
def Obligations.DemuxRunsSelectedOperation : Prop :=
  ∀ (s : State) (payload : List Byte), payload.length ≤ 65532 →
    ∃ t, exec (.demux payload) s = .next t ∧ t = { s with result := t.result } ∧
      (payload.length < 2 →
        t.result = some (.packetError (.frameTooShort (BitVec.ofNat 16 payload.length)))) ∧
      (∀ version sel data i, payload = version :: sel :: data → decodeWord (.sel sel data) = .ok i →
        exec i s = .next t)

/-- 42_packet_decode.md R121, R132: the version byte, a sample's signal byte and the leftover bytes after the
last whole sample do not reach the packet. -/
def Obligations.DiscardedBytesAreIgnored : Prop :=
  (∀ (v v' : Byte) (rest : List Byte), demux (v :: rest) = demux (v' :: rest)) ∧
  (∀ (fixed before rest : List Byte) (x y : Byte), fixed.length = 7 → before.length % 3 = 0 →
    cmdDist (fixed ++ before ++ x :: rest) = cmdDist (fixed ++ before ++ y :: rest)) ∧
  (∀ (fixed triples left left' : List Byte), fixed.length = 7 → triples.length % 3 = 0 →
    left.length < 3 → left.length = left'.length →
    cmdDist (fixed ++ triples ++ left) = cmdDist (fixed ++ triples ++ left'))

/-! ### Errors and results -/

/-- 60_exceptions.md R161, R162, R163: on an instance whose run has not ended, a step on a byte gives each
framing error exactly on its cause, with the operands the rule records, and is then in AwaitingHeader; the other
events give none. -/
def Obligations.FramingErrorsHaveTheirCauses : Prop :=
  ∀ (s : State) (b : Byte), s.closed = false →
    ∃ t, exec (.stepEvent (.byte b)) s = .next t ∧
      (∀ x, t.result = some (.frameError (.invalidHeader x)) ↔
        s.st = .awaitingHeader ∧ b ≠ 0xAA ∧ x = b) ∧
      (∀ l, t.result = some (.frameError (.invalidLength l)) ↔
        s.st = .awaitingLengthByte2 ∧ l.toNat = s.len.toNat / 256 * 256 + b.toNat ∧ l.toNat < 6) ∧
      (∀ c r, t.result = some (.frameError (.invalidChecksum c r)) ↔
        s.st = .awaitingChecksumByte2 ∧ c = s.ck ∧ r.toNat = s.rxh.toNat * 256 + b.toNat ∧ r ≠ c) ∧
      (∀ e, t.result = some (.frameError e) → t.st = .awaitingHeader) ∧
      (∀ e, e = .idle ∨ e = .reset ∨ e = .close →
        ∃ u, exec (.stepEvent e) s = .next u ∧ ∀ x, u.result ≠ some (.frameError x))

/-- 60_exceptions.md R164, R165, R166 (operands by the spec's decisions D9 and D10): what a decode error can
carry when it comes from a received frame; `s` is any state that meets the invariant. -/
def Obligations.DecodeErrorOperandsFromFrames : Prop :=
  ∀ (s t : State) (b : Byte), Inv s → s.closed = false → s.st = .awaitingChecksumByte2 →
    exec (.ckbLo b) s = .next t →
    t.st = .awaitingHeader ∧
    (∀ n, t.result = some (.packetError (.frameTooShort n)) →
      1 ≤ n.toNat ∧ n.toNat ≤ 6 ∧ n.toNat + 2 = s.cnt) ∧
    (∀ x, t.result = some (.packetError (.unsupportedCommandByte x)) →
      x ≠ 0xAD ∧ x ≠ 0xAE ∧ s.buf.read 1 = some x) ∧
    (∀ a e, t.result = some (.packetError (.unexpectedFrameLength a e)) →
      a ≠ e ∧ a.toNat + 4 = s.cnt ∧ s.buf.read 1 = some 0xAD ∧
      s.buf.read 2 = some (hiByte e) ∧ s.buf.read 3 = some (loByte e))

/-- 43_stream_composition.md R141: where each kind of result can come from. -/
def Obligations.ResultKindsComeFromTheirStates : Prop :=
  ∀ (s t : State) (e : Event) (r : Result), exec (.stepEvent e) s = .next t → t.result = some r →
    (r = .ended ↔ e = .close) ∧
    (∀ x, r = .frameError (.invalidHeader x) → s.st = .awaitingHeader ∧ ∃ b, e = .byte b) ∧
    (∀ l, r = .frameError (.invalidLength l) → s.st = .awaitingLengthByte2 ∧ ∃ b, e = .byte b) ∧
    ((∃ c x, r = .frameError (.invalidChecksum c x)) ∨ (∃ p, r = .packet p) ∨
        (∃ x, r = .packetError x) →
      s.st = .awaitingChecksumByte2 ∧ ∃ b, e = .byte b) ∧
    (r = .incomplete → ∀ b, e = .byte b → s.st ≠ .awaitingChecksumByte2) ∧
    (e = .idle ∨ e = .reset → r = .incomplete)

/-- 41_frame_sync.md R110: a step of FSY ends in AwaitingHeader exactly when its outcome is not `Incomplete`. -/
def Obligations.FsyReturnsToAwaitingHeader : Prop :=
  ∀ (s : State) (b : Byte), (consume b s).1.st = .awaitingHeader ↔ (consume b s).2 ≠ .incomplete

/-- 41_frame_sync.md R100, 60_exceptions.md R175: as long as the run has not ended every step has a next
state, with a result; after it a step stops; no step is refused. That a step with no event pending goes on, as
the step of an idle link, is the model's choice (log entry 3). -/
def Obligations.StepIsTotalUntilClose : Prop :=
  ∀ s : State,
    (s.closed = false → ∃ t r, step s = .next t ∧ t.result = some r) ∧
    (s.closed = true → step s = .fault .runEnded) ∧
    (∀ x, step s ≠ .refused x)

/-! ### The whole machine -/

/-- 10_state.md R28: every step keeps the invariant. -/
def Obligations.StepKeepsInvariant : Prop :=
  ∀ s t : State, Inv s → step s = .next t → Inv t

/-- 10_state.md R27 and R26: no rule reads a dead register. Two states that differ in dead registers only give
the same results, for one step and for every run. So no claim about results rests on a value the model holds in
a dead register (log entries 1 and 2). -/
def Obligations.DeadRegistersAreUnobservable : Prop :=
  ∀ s t : State, LiveEq s t →
    ((step s = .fault .runEnded ∧ step t = .fault .runEnded) ∨
      ∃ s' t', step s = .next s' ∧ step t = .next t' ∧ s'.result = t'.result ∧ LiveEq s' t') ∧
    ∀ events, trace events s = trace events t

/-- 70_reset_and_hazards.md R190, 10_state.md R35: the `RESET` event and the end of a frame, good or bad, leave
the state of power-on reset but for dead registers. -/
def Obligations.EveryResetLeavesTheSameState : Prop :=
  (∀ s t : State, exec .reset s = .next t →
    LiveEq t { State.reset with pending := s.pending, closed := s.closed }) ∧
  (∀ (s : State) (b : Byte), (consume b s).2 ≠ .incomplete →
    LiveEq (consume b s).1 { State.reset with pending := s.pending, closed := s.closed })

/-- 10_state.md R22 to R25: while a frame goes on, `len` is written by the two length bytes only, `rxh` by the
first checksum byte only, `ck` by no checksum byte, and `buf` by the second length byte and the payload bytes
only. -/
def Obligations.RegistersHaveTheirWriters : Prop :=
  ∀ (s t : State) (b : Byte), exec (.stepEvent (.byte b)) s = .next t → t.result = some .incomplete →
    (t.len ≠ s.len → s.st = .awaitingLengthByte1 ∨ s.st = .awaitingLengthByte2) ∧
    (t.rxh ≠ s.rxh → s.st = .awaitingChecksumByte1) ∧
    (s.st = .awaitingChecksumByte1 → t.ck = s.ck) ∧
    ((∃ a, t.buf.read a ≠ s.buf.read a) →
      s.st = .awaitingLengthByte2 ∨ s.st = .accumulatingPayload)

/-- 20_memory.md R40: the operations other than `LEN_LO`, `PAY`, `CKB_LO`, `RESET` and `HDR_REJ` (after the
last three the buffer is dead), and `STEP`, which runs them, leave every byte of the buffer as it was. For the
operations of PDX and CSA executed on their own this rests on log entry 7, and for `CLOSE` on log entry 19. -/
def Obligations.OtherOperationsKeepBuffer : Prop :=
  ∀ (s t : State) (i : Instr),
    (match i with
      | .lenLo _ | .pay _ | .ckbLo _ | .reset | .hdrRej _ | .stepEvent _ => False
      | _ => True) →
    exec i s = .next t → (∀ a, t.buf.read a = s.buf.read a) ∧ t.cnt = s.cnt

/-- 43_stream_composition.md R143, 70_reset_and_hazards.md R197: only `CLOSE` ends a run, and no operation
takes an event that is still to come. That PDX and CSA operations executed on their own go on after it, and the
list of events to come, are the model's choices (log entries 5 and 3). -/
def Obligations.OnlyCloseEndsRun : Prop :=
  ∀ (s t : State) (i : Instr), exec i s = .next t →
    t.pending = s.pending ∧
    (t.closed = true ↔ s.closed = true ∨ i = .close ∨ i = .stepEvent .close)

/-- 10_state.md R29: a byte that does not end the frame raises the position by exactly one; any other leaves
it at 0. -/
def Obligations.PositionAdvancesByOne : Prop :=
  ∀ (s : State) (b : Byte),
    ((consume b s).2 = .incomplete → (consume b s).1.pos = s.pos + 1) ∧
    ((consume b s).2 ≠ .incomplete → (consume b s).1.pos = 0)

/-! ### Runs and frames -/

/-- 41_frame_sync.md R112 and R114: from AwaitingHeader, the bytes of a well-formed wire frame give
`Incomplete` for all but the last, and the decode of exactly `w[3..L]` for the last; the state is AwaitingHeader
again. -/
def Obligations.WellFormedFrameGivesOneResult : Prop :=
  ∀ (s : State) (w : List Byte), s.closed = false → s.st = .awaitingHeader → wellFormedFrame w = true →
    (bytesRun w s).1 = List.replicate (w.length - 1) .incomplete ++
      [match demux (framePayload w) with | .packet p => .packet p | .error e => .packetError e] ∧
    (bytesRun w s).2.st = .awaitingHeader ∧ (bytesRun w s).2.closed = false

/-- 41_frame_sync.md R113, 43_stream_composition.md R142: after an error of either class, a well-formed frame
that follows is parsed. -/
def Obligations.NextFrameParsesAfterAnyError : Prop :=
  ∀ (s t : State) (b : Byte) (w : List Byte), exec (.stepEvent (.byte b)) s = .next t →
    (∃ e, t.result = some (.frameError e)) ∨ (∃ e, t.result = some (.packetError e)) →
    wellFormedFrame w = true →
    (bytesRun w t).1 = List.replicate (w.length - 1) .incomplete ++
      [match demux (framePayload w) with | .packet p => .packet p | .error e => .packetError e]

/-- 40_checksum.md R97: a change to exactly one payload byte, checksum bytes unchanged, is always rejected at
the last byte with `InvalidChecksum`, and at no other. -/
def Obligations.OnePayloadByteChangeIsRejected : Prop :=
  ∀ (s : State) (before after : List Byte) (x y : Byte), s.closed = false → s.st = .awaitingHeader →
    x ≠ y → 3 ≤ (before ++ x :: after).length → (before ++ x :: after).length ≤ 65532 →
    let sent := wireSpan (before ++ x :: after)
    let got := wireSpan (before ++ y :: after)
    (bytesRun (withChecksum got (ckSum sent)) s).1 =
      List.replicate (got.length + 1) .incomplete ++
        [.frameError (.invalidChecksum (ckSum got) (ckSum sent))]

/-- 30_encoding.md R71 and R72: a built frame is well-formed and its payload is the one it was built from. -/
def Obligations.BuiltFrameIsWellFormed : Prop :=
  ∀ payload : List Byte, 3 ≤ payload.length → payload.length ≤ 65532 →
    wellFormedFrame (wireFrame payload) = true ∧ framePayload (wireFrame payload) = payload ∧
    declaredLength (wireFrame payload) = some (payload.length + 3) ∧
    (wireFrame payload).length = payload.length + 5

/-- 30_encoding.md R73: a well-formed Distance frame gives a Distance packet, with `(n − 7) div 3` samples for
its `n = L − 5` bytes of command data. -/
def Obligations.WellFormedDistanceFrameDecodes : Prop :=
  ∀ (s : State) (w : List Byte), s.closed = false → s.st = .awaitingHeader →
    wellFormedDistance w = true →
    ∃ d : Distance, (bytesRun w s).1 =
        List.replicate (w.length - 1) .incomplete ++ [.packet (.distance d)] ∧
      d.distRaw.length = (w.length - 2 - 5 - 7) / 3

/-- 70_reset_and_hazards.md R200 and R202 (a), (c): after a header, true or false, a length below 6 is reported
at once; a length of 6 or more keeps every following byte but the last of its `L − 1` silent, whatever they
are. -/
def Obligations.FalseHeaderSwallowsBytes : Prop :=
  ∀ (s : State) (hi lo : Byte) (rest : List Byte), s.closed = false → s.st = .awaitingHeader →
    ((be16 hi lo).toNat < 6 →
      (bytesRun [0xAA, hi, lo] s).1 =
        [.incomplete, .incomplete, .frameError (.invalidLength (be16 hi lo))] ∧
      (bytesRun [0xAA, hi, lo] s).2.st = .awaitingHeader) ∧
    (6 ≤ (be16 hi lo).toNat → rest.length + 2 ≤ (be16 hi lo).toNat →
      (bytesRun (0xAA :: hi :: lo :: rest) s).1 = List.replicate (rest.length + 3) .incomplete)

/-- 43_stream_composition.md R144: an `IDLE` event adds one `Incomplete` and changes nothing else of the
trace, and the packet stream and the log stream do not depend on `IDLE` events. -/
def Obligations.IdleEventsAreInvisible : Prop :=
  (∀ (s : State) (before after : List Event), s.closed = false → .close ∉ before →
    ∃ r r', trace (before ++ .idle :: after) s = r ++ .incomplete :: r' ∧
      trace (before ++ after) s = r ++ r' ∧ r.length = before.length) ∧
  (∀ (s : State) (events : List Event),
    packetStream (trace events s) = packetStream (trace (events.filter (· ≠ .idle)) s) ∧
    logStream (trace events s) = logStream (trace (events.filter (· ≠ .idle)) s))

/-- The run of an event sequence (43_stream_composition.md R143) is the machine's own steps over those events
as the pending ones (log entry 3). -/
def Obligations.RunIsTheMachinesSteps : Prop :=
  ∀ (s : State) (events : List Event), s.closed = false → .close ∉ events →
    Host.Core.run core events.length { s with pending := events } =
      .next { (run events s).2 with pending := [] } ∧
    (run events s).1.length = events.length

/-- 43_stream_composition.md R143, R145: a run gives `End` for its first `CLOSE` and no result after it. -/
def Obligations.RunEndsAtFirstClose : Prop :=
  ∀ (s : State) (before after : List Event), s.closed = false → .close ∉ before →
    trace (before ++ .close :: after) s = trace before s ++ [.ended] ∧ .ended ∉ trace before s

/-! ### Numbers and values -/

/-- 60_exceptions.md R167 and 30_encoding.md R76 (the spec's decision D14): the cause codes, and the kind code
`8 + c` of the error with cause code `c`. -/
def Obligations.CauseAndKindCodes : Prop :=
  ∀ (b : Byte) (v u : Word) (d : Distance),
    (FrameError.invalidHeader b).causeCode = 1 ∧ (FrameError.invalidLength v).causeCode = 2 ∧
    (FrameError.invalidChecksum v u).causeCode = 3 ∧ (PacketError.frameTooShort v).causeCode = 4 ∧
    (PacketError.unsupportedCommandByte b).causeCode = 5 ∧
    (PacketError.unexpectedFrameLength v u).causeCode = 6 ∧
    Result.incomplete.kindCode = 0 ∧ (Result.packet (.distance d)).kindCode = 1 ∧
    (Result.packet .lidarSpeed).kindCode = 2 ∧ Result.ended.kindCode = 3 ∧
    (∀ e, (Result.frameError e).kindCode.toNat = 8 + e.causeCode) ∧
    (∀ e, (Result.packetError e).kindCode.toNat = 8 + e.causeCode)

/-- 10_state.md R33, 30_encoding.md R67 (exact rationals: the spec's decision D13): each exact value is its
count over its scale, and lies in the range of the rule. -/
def Obligations.ScaledValuesInRange : Prop :=
  ∀ d : Distance,
    (d.radarSpeed = (d.speedRaw.toNat : ℚ) / 20 ∧ d.startAngle = (d.startRaw.toNat : ℚ) / 100 ∧
      d.offsetAngle = (d.offsetRaw.toNat : ℚ) / 100 ∧ d.distances.length = d.distRaw.length ∧
      ∀ (i : Nat) (r : Word), d.distRaw[i]? = some r → d.distances[i]? = some ((r.toNat : ℚ) / 4)) ∧
    0 ≤ d.radarSpeed ∧ d.radarSpeed ≤ 1275 / 100 ∧
    0 ≤ d.startAngle ∧ d.startAngle ≤ 65535 / 100 ∧
    0 ≤ d.offsetAngle ∧ d.offsetAngle ≤ 65535 / 100 ∧
    (∀ x ∈ d.distances, 0 ≤ x ∧ x ≤ 1638375 / 100)

/-! ### Endless runs and the host's boundary -/

/-- 43_stream_composition.md R143 for an event sequence that does not end: its trace has the traces of its
finite beginnings, one result for each event until the first `CLOSE` has given its own; what the consumer and the
log have received only grows; and as long as no `CLOSE` has come, the machine's own steps over the events so far,
as the pending ones (log entries 3 and 25), reach the state of the run. -/
def Obligations.EndlessRunContinuesItsBeginnings : Prop :=
  ∀ (events : Nat → Event) (s : State) (n : Nat),
    trace (firstEvents events n) s = endlessResults events s n ∧
    (s.closed = false → (endlessTrace events s n = none ↔ ∃ k, k < n ∧ events k = .close)) ∧
    (∀ m, m ≤ n → endlessPackets events s m <+: endlessPackets events s n ∧
      endlessLog events s m <+: endlessLog events s n) ∧
    (s.closed = false → (∀ k, k < n → events k ≠ .close) →
      ∃ t, endlessState events s n = some t ∧
        Host.Core.run core n { s with pending := firstEvents events n } = .next { t with pending := [] })

/-- 43_stream_composition.md R147, R149, R150: while nothing is consumed and the queue has room, a trace puts
its Packets, and nothing else, behind those that wait, in completion order, and closes the queue exactly on
`End`; without a limit of depth there always is room; the consumer takes the oldest, and with none left it
reports exhaustion exactly when the queue is closed, again and again. The model has no successor for a full queue
(log entry 24). -/
def Obligations.HandOffKeepsCompletionOrder : Prop :=
  ∀ (p : Config.OpenParams) (q : HandOff) (results : List Result),
    (∀ q', q.takeAll p results = some q' →
      q'.waiting = q.waiting ++ packetsOf results ∧
      (q'.closed = true ↔ q.closed = true ∨ .ended ∈ results)) ∧
    ((p.queueDepth = none ∨
        ∃ depth, p.queueDepth = some depth ∧ q.waiting.length + (packetsOf results).length ≤ depth) →
      ∃ q', q.takeAll p results = some q') ∧
    (∀ first rest, q.waiting = first :: rest → q.consume = (.packet first, { q with waiting := rest })) ∧
    (q.waiting = [] → q.consume.2 = q ∧ (q.consume.1 = .exhausted ↔ q.closed = true))
end

