-- ==== Sys2Proof/Laws/State.lean ====
section
/-! SUPPORT. One lemma for each field of State and each named update (true by rfl), and what the end of a
frame leaves. -/

namespace Sys2Proof.Machine

@[simp] theorem State.setSt_st (s : State) (v : SyncState) : (s.setSt v).st = v := rfl
@[simp] theorem State.setSt_ck (s : State) (v : SyncState) : (s.setSt v).ck = s.ck := rfl
@[simp] theorem State.setSt_len (s : State) (v : SyncState) : (s.setSt v).len = s.len := rfl
@[simp] theorem State.setSt_rxh (s : State) (v : SyncState) : (s.setSt v).rxh = s.rxh := rfl
@[simp] theorem State.setSt_buf (s : State) (v : SyncState) : (s.setSt v).buf = s.buf := rfl
@[simp] theorem State.setSt_result (s : State) (v : SyncState) : (s.setSt v).result = s.result := rfl
@[simp] theorem State.setSt_closed (s : State) (v : SyncState) : (s.setSt v).closed = s.closed := rfl
@[simp] theorem State.setSt_pending (s : State) (v : SyncState) : (s.setSt v).pending = s.pending := rfl
@[simp] theorem State.setSt_free (s : State) (v : SyncState) : (s.setSt v).free = s.free := rfl

@[simp] theorem State.setCk_st (s : State) (v : Word) : (s.setCk v).st = s.st := rfl
@[simp] theorem State.setCk_ck (s : State) (v : Word) : (s.setCk v).ck = v := rfl
@[simp] theorem State.setCk_len (s : State) (v : Word) : (s.setCk v).len = s.len := rfl
@[simp] theorem State.setCk_rxh (s : State) (v : Word) : (s.setCk v).rxh = s.rxh := rfl
@[simp] theorem State.setCk_buf (s : State) (v : Word) : (s.setCk v).buf = s.buf := rfl
@[simp] theorem State.setCk_result (s : State) (v : Word) : (s.setCk v).result = s.result := rfl
@[simp] theorem State.setCk_closed (s : State) (v : Word) : (s.setCk v).closed = s.closed := rfl
@[simp] theorem State.setCk_pending (s : State) (v : Word) : (s.setCk v).pending = s.pending := rfl
@[simp] theorem State.setCk_free (s : State) (v : Word) : (s.setCk v).free = s.free := rfl

@[simp] theorem State.setLen_st (s : State) (v : Word) : (s.setLen v).st = s.st := rfl
@[simp] theorem State.setLen_ck (s : State) (v : Word) : (s.setLen v).ck = s.ck := rfl
@[simp] theorem State.setLen_len (s : State) (v : Word) : (s.setLen v).len = v := rfl
@[simp] theorem State.setLen_rxh (s : State) (v : Word) : (s.setLen v).rxh = s.rxh := rfl
@[simp] theorem State.setLen_buf (s : State) (v : Word) : (s.setLen v).buf = s.buf := rfl
@[simp] theorem State.setLen_result (s : State) (v : Word) : (s.setLen v).result = s.result := rfl
@[simp] theorem State.setLen_closed (s : State) (v : Word) : (s.setLen v).closed = s.closed := rfl
@[simp] theorem State.setLen_pending (s : State) (v : Word) : (s.setLen v).pending = s.pending := rfl
@[simp] theorem State.setLen_free (s : State) (v : Word) : (s.setLen v).free = s.free := rfl

@[simp] theorem State.setRxh_st (s : State) (v : Byte) : (s.setRxh v).st = s.st := rfl
@[simp] theorem State.setRxh_ck (s : State) (v : Byte) : (s.setRxh v).ck = s.ck := rfl
@[simp] theorem State.setRxh_len (s : State) (v : Byte) : (s.setRxh v).len = s.len := rfl
@[simp] theorem State.setRxh_rxh (s : State) (v : Byte) : (s.setRxh v).rxh = v := rfl
@[simp] theorem State.setRxh_buf (s : State) (v : Byte) : (s.setRxh v).buf = s.buf := rfl
@[simp] theorem State.setRxh_result (s : State) (v : Byte) : (s.setRxh v).result = s.result := rfl
@[simp] theorem State.setRxh_closed (s : State) (v : Byte) : (s.setRxh v).closed = s.closed := rfl
@[simp] theorem State.setRxh_pending (s : State) (v : Byte) : (s.setRxh v).pending = s.pending := rfl
@[simp] theorem State.setRxh_free (s : State) (v : Byte) : (s.setRxh v).free = s.free := rfl

@[simp] theorem State.setBuf_st (s : State) (v : Memory) : (s.setBuf v).st = s.st := rfl
@[simp] theorem State.setBuf_ck (s : State) (v : Memory) : (s.setBuf v).ck = s.ck := rfl
@[simp] theorem State.setBuf_len (s : State) (v : Memory) : (s.setBuf v).len = s.len := rfl
@[simp] theorem State.setBuf_rxh (s : State) (v : Memory) : (s.setBuf v).rxh = s.rxh := rfl
@[simp] theorem State.setBuf_buf (s : State) (v : Memory) : (s.setBuf v).buf = v := rfl
@[simp] theorem State.setBuf_result (s : State) (v : Memory) : (s.setBuf v).result = s.result := rfl
@[simp] theorem State.setBuf_closed (s : State) (v : Memory) : (s.setBuf v).closed = s.closed := rfl
@[simp] theorem State.setBuf_pending (s : State) (v : Memory) : (s.setBuf v).pending = s.pending := rfl
@[simp] theorem State.setBuf_free (s : State) (v : Memory) : (s.setBuf v).free = s.free := rfl

@[simp] theorem State.setResult_st (s : State) (v : Result) : (s.setResult v).st = s.st := rfl
@[simp] theorem State.setResult_ck (s : State) (v : Result) : (s.setResult v).ck = s.ck := rfl
@[simp] theorem State.setResult_len (s : State) (v : Result) : (s.setResult v).len = s.len := rfl
@[simp] theorem State.setResult_rxh (s : State) (v : Result) : (s.setResult v).rxh = s.rxh := rfl
@[simp] theorem State.setResult_buf (s : State) (v : Result) : (s.setResult v).buf = s.buf := rfl
@[simp] theorem State.setResult_result (s : State) (v : Result) : (s.setResult v).result = some v := rfl
@[simp] theorem State.setResult_closed (s : State) (v : Result) : (s.setResult v).closed = s.closed := rfl
@[simp] theorem State.setResult_pending (s : State) (v : Result) : (s.setResult v).pending = s.pending := rfl
@[simp] theorem State.setResult_free (s : State) (v : Result) : (s.setResult v).free = s.free := rfl

@[simp] theorem State.setClosed_st (s : State) (v : Bool) : (s.setClosed v).st = s.st := rfl
@[simp] theorem State.setClosed_ck (s : State) (v : Bool) : (s.setClosed v).ck = s.ck := rfl
@[simp] theorem State.setClosed_len (s : State) (v : Bool) : (s.setClosed v).len = s.len := rfl
@[simp] theorem State.setClosed_rxh (s : State) (v : Bool) : (s.setClosed v).rxh = s.rxh := rfl
@[simp] theorem State.setClosed_buf (s : State) (v : Bool) : (s.setClosed v).buf = s.buf := rfl
@[simp] theorem State.setClosed_result (s : State) (v : Bool) : (s.setClosed v).result = s.result := rfl
@[simp] theorem State.setClosed_closed (s : State) (v : Bool) : (s.setClosed v).closed = v := rfl
@[simp] theorem State.setClosed_pending (s : State) (v : Bool) : (s.setClosed v).pending = s.pending := rfl
@[simp] theorem State.setClosed_free (s : State) (v : Bool) : (s.setClosed v).free = s.free := rfl

@[simp] theorem State.setPending_st (s : State) (v : List Event) : (s.setPending v).st = s.st := rfl
@[simp] theorem State.setPending_ck (s : State) (v : List Event) : (s.setPending v).ck = s.ck := rfl
@[simp] theorem State.setPending_len (s : State) (v : List Event) : (s.setPending v).len = s.len := rfl
@[simp] theorem State.setPending_rxh (s : State) (v : List Event) : (s.setPending v).rxh = s.rxh := rfl
@[simp] theorem State.setPending_buf (s : State) (v : List Event) : (s.setPending v).buf = s.buf := rfl
@[simp] theorem State.setPending_result (s : State) (v : List Event) : (s.setPending v).result = s.result := rfl
@[simp] theorem State.setPending_closed (s : State) (v : List Event) : (s.setPending v).closed = s.closed := rfl
@[simp] theorem State.setPending_pending (s : State) (v : List Event) : (s.setPending v).pending = v := rfl
@[simp] theorem State.setPending_free (s : State) (v : List Event) : (s.setPending v).free = s.free := rfl

@[simp] theorem State.killRegisters_st (s : State) : s.killRegisters.st = s.st := rfl
@[simp] theorem State.killRegisters_result (s : State) : s.killRegisters.result = s.result := rfl
@[simp] theorem State.killRegisters_closed (s : State) : s.killRegisters.closed = s.closed := rfl
@[simp] theorem State.killRegisters_pending (s : State) : s.killRegisters.pending = s.pending := rfl

/-- The end of a frame leaves AwaitingHeader. -/
@[simp] theorem State.endFrame_st (s : State) : s.endFrame.st = .awaitingHeader := by
  unfold State.endFrame
  split <;> simp_all

@[simp] theorem State.endFrame_result (s : State) : s.endFrame.result = s.result := by
  unfold State.endFrame
  split <;> simp

@[simp] theorem State.endFrame_closed (s : State) : s.endFrame.closed = s.closed := by
  unfold State.endFrame
  split <;> simp

@[simp] theorem State.endFrame_pending (s : State) : s.endFrame.pending = s.pending := by
  unfold State.endFrame
  split <;> simp

/-- In AwaitingHeader the registers are dead already: nothing changes. -/
theorem State.endFrame_of_awaitingHeader (s : State) (h : s.st = .awaitingHeader) : s.endFrame = s := by
  unfold State.endFrame
  rw [h]

/-- In any other state the registers take free values. -/
theorem State.endFrame_of_frame (s : State) (h : s.st ≠ .awaitingHeader) :
    s.endFrame = s.killRegisters.setSt .awaitingHeader := by
  unfold State.endFrame
  split
  · exact absurd ‹_› h
  · rfl

end Sys2Proof.Machine
end

