-- ==== Sys2Proof/Laws/Memory.lean ====
section
/-! SUPPORT. The payload buffer: every operation keeps the canonical form, and what a read gives. -/

namespace Sys2Proof.Machine

@[simp] theorem Memory.length_empty : Memory.empty.length = 0 := rfl
@[simp] theorem Memory.contents_empty : Memory.empty.contents = [] := rfl
@[simp] theorem Memory.read_empty (a : Nat) : Memory.empty.read a = none := rfl

@[simp] theorem Memory.length_append (m : Memory) (b : Byte) : (m.append b).length = m.length + 1 := by
  simp [Memory.append]

@[simp] theorem Memory.contents_append (m : Memory) (b : Byte) :
    (m.append b).contents = m.contents ++ [b] := by
  simp [Memory.append, Memory.contents]

@[simp] theorem Memory.length_contents (m : Memory) : m.contents.length = m.length := by
  simp [Memory.contents]

theorem Memory.wf_iff (m : Memory) : m.wf = true ↔ m.map Prod.fst = List.range m.length := by
  simp [Memory.wf]

theorem Memory.wf_empty : Memory.empty.wf = true := rfl

/-- The store keeps the canonical form. -/
theorem Memory.wf_append (m : Memory) (b : Byte) (h : m.wf = true) : (m.append b).wf = true := by
  rw [Memory.wf_iff] at h ⊢
  simp only [Memory.append, List.map_append, List.map_cons, List.map_nil, h, List.length_append,
    List.length_cons, List.length_nil, List.range_succ]

theorem Memory.foldl_append (bytes : List Byte) (m : Memory) :
    (bytes.foldl Memory.append m).contents = m.contents ++ bytes := by
  induction bytes generalizing m with
  | nil => simp
  | cons b rest ih => simp [ih]

theorem Memory.foldl_append_wf (bytes : List Byte) (m : Memory) (h : m.wf = true) :
    (bytes.foldl Memory.append m).wf = true := by
  induction bytes generalizing m with
  | nil => exact h
  | cons b rest ih => exact ih _ (m.wf_append b h)

@[simp] theorem Memory.contents_ofBytes (bytes : List Byte) : (Memory.ofBytes bytes).contents = bytes := by
  simp [Memory.ofBytes, Memory.foldl_append]

@[simp] theorem Memory.length_ofBytes (bytes : List Byte) : (Memory.ofBytes bytes).length = bytes.length := by
  rw [← Memory.length_contents, Memory.contents_ofBytes]

theorem Memory.wf_ofBytes (bytes : List Byte) : (Memory.ofBytes bytes).wf = true :=
  Memory.foldl_append_wf bytes _ Memory.wf_empty

/-- The end of a frame keeps the canonical form. -/
theorem State.endFrame_wf (s : State) (h : s.buf.wf = true) : s.endFrame.buf.wf = true := by
  by_cases hs : s.st = .awaitingHeader
  · rwa [s.endFrame_of_awaitingHeader hs]
  · rw [s.endFrame_of_frame hs]
    exact Memory.wf_ofBytes _

/-- The end of a frame keeps the buffer within its capacity. -/
theorem State.endFrame_cnt (s : State) (h : s.cnt ≤ Config.bufCap) : s.endFrame.cnt ≤ Config.bufCap := by
  by_cases hs : s.st = .awaitingHeader
  · rwa [s.endFrame_of_awaitingHeader hs]
  · rw [s.endFrame_of_frame hs]
    simp [State.cnt, State.killRegisters]

theorem Memory.read_range (bytes : List Byte) (n a : Nat) :
    Memory.read ((List.range' n bytes.length).zip bytes) (n + a) = bytes[a]? := by
  induction bytes generalizing n a with
  | nil => simp [Memory.read]
  | cons b rest ih =>
    simp only [List.length_cons, List.range'_succ, List.zip_cons_cons, Memory.read, List.find?_cons]
    cases a with
    | zero => simp
    | succ k =>
      have hne : (n == n + (k + 1)) = false := by simp
      simp only [hne, List.getElem?_cons_succ]
      have := ih (n + 1) k
      rwa [Nat.add_right_comm, Nat.add_assoc] at this

/-- A canonical buffer reads at an index the byte that stands there, and none beyond its end. -/
theorem Memory.read_of_wf (m : Memory) (h : m.wf = true) (a : Nat) : m.read a = m.contents[a]? := by
  rw [Memory.wf_iff] at h
  have hz : m = (List.range' 0 m.contents.length).zip m.contents := by
    rw [Memory.length_contents, ← List.range_eq_range', ← h, Memory.contents]
    exact List.zip_of_prod rfl rfl
  have := Memory.read_range m.contents 0 a
  rw [← hz] at this
  simpa using this

end Sys2Proof.Machine
end

