-- ==== Sys2Proof/Laws/Words.lean ====
section
/-! SUPPORT. Byte assembly and checksum arithmetic as arithmetic of natural numbers. -/

namespace Sys2Proof.Machine

theorem be16_toNat (hi lo : Byte) : (be16 hi lo).toNat = hi.toNat * 256 + lo.toNat := by
  have h1 := hi.isLt
  have h2 := lo.isLt
  simp only [be16, BitVec.toNat_append]
  rw [← Nat.shiftLeft_add_eq_or_of_lt h2, Nat.shiftLeft_eq]

theorem hiByte_toNat (w : Word) : (hiByte w).toNat = w.toNat / 256 := by
  have := w.isLt
  simp only [hiByte, BitVec.extractLsb'_toNat, Nat.shiftRight_eq_div_pow]
  omega

theorem loByte_toNat (w : Word) : (loByte w).toNat = w.toNat % 256 := by
  simp [loByte, BitVec.extractLsb'_toNat]

@[simp] theorem hiByte_be16 (hi lo : Byte) : hiByte (be16 hi lo) = hi := by
  apply BitVec.eq_of_toNat_eq
  rw [hiByte_toNat, be16_toNat]
  have := lo.isLt
  omega

@[simp] theorem loByte_be16 (hi lo : Byte) : loByte (be16 hi lo) = lo := by
  apply BitVec.eq_of_toNat_eq
  rw [loByte_toNat, be16_toNat]
  have := lo.isLt
  omega

@[simp] theorem be16_hiByte_loByte (w : Word) : be16 (hiByte w) (loByte w) = w := by
  apply BitVec.eq_of_toNat_eq
  rw [be16_toNat, hiByte_toNat, loByte_toNat]
  omega

theorem ckInit_toNat (b : Byte) : (ckInit b).toNat = b.toNat := by
  have := b.isLt
  simp only [ckInit, zext16, BitVec.toNat_setWidth]
  omega

theorem ckFold_toNat (c : Word) (b : Byte) : (ckFold c b).toNat = (c.toNat + b.toNat) % 65536 := by
  have h : (zext16 b).toNat = b.toNat := ckInit_toNat b
  simp only [ckFold, add16, BitVec.toNat_add, h, Nat.reducePow]

/-- Folding a sequence adds its byte sum, modulo 2^16. -/
theorem foldl_ckFold_toNat (bytes : List Byte) (c : Word) :
    (bytes.foldl ckFold c).toNat = (c.toNat + (bytes.map BitVec.toNat).sum) % 65536 := by
  induction bytes generalizing c with
  | nil =>
    have := c.isLt
    simp only [List.foldl_nil, List.map_nil, List.sum_nil]
    omega
  | cons b rest ih =>
    simp only [List.foldl_cons, List.map_cons, List.sum_cons, ih, ckFold_toNat]
    omega

theorem lengthRejected_iff (l : Word) : lengthRejected l = true ↔ l.toNat < 6 :=
  decide_eq_true_iff

theorem payloadComplete_iff (n : Nat) (len : Word) : payloadComplete n len = true ↔ n + 3 = len.toNat := by
  simp [payloadComplete, Config.lenOverhead]

theorem checksumMatches_iff (r c : Word) : checksumMatches r c = true ↔ r = c := by
  simp [checksumMatches]

end Sys2Proof.Machine
end

