-- ==== Sys2Proof/Laws/Ops.lean ====
section
/-! SUPPORT. What each shared operation can do, said once. -/

namespace Sys2Proof.Machine

/-- On an instance that takes events, an event operation is its body. -/
theorem acceptEvent_open (s : State) (k : State → StepOutcome) (h : s.closed = false) :
    acceptEvent s k = k s := by
  simp [acceptEvent, h]

/-- After `CLOSE`, an event operation stops. -/
theorem acceptEvent_closed (s : State) (k : State → StepOutcome) (h : s.closed = true) :
    acceptEvent s k = .fault .runEnded := by
  simp [acceptEvent, h]

/-- If an event operation answers next, the run had not ended. -/
theorem acceptEvent_next (s t : State) (k : State → StepOutcome) (h : acceptEvent s k = .next t) :
    s.closed = false ∧ k s = .next t := by
  cases hc : s.closed with
  | false => exact ⟨rfl, by rwa [acceptEvent_open s k hc] at h⟩
  | true => simp [acceptEvent_closed s k hc] at h

/-- Raising an error: AwaitingHeader, and nothing else but the dead registers. -/
theorem raiseError_spec (e : FrameError) (s : State) :
    (raiseError e s).1.st = .awaitingHeader ∧ (raiseError e s).1.closed = s.closed ∧
      (raiseError e s).1.pending = s.pending ∧ (raiseError e s).2 = .frameError e := by
  simp [raiseError]

/-- `deliver` always answers next, with the result of the outcome. -/
theorem deliver_next (r : State × FsyOutcome) :
    deliver r = .next (r.1.setResult (resultOfFsy r.2)) := rfl

/-- The next event is the first pending one, or an idle link's `IDLE`. -/
theorem nextEvent_cons (s : State) (e : Event) (rest : List Event) (h : s.pending = e :: rest) :
    nextEvent s = (e, s.setPending rest) := by
  simp [nextEvent, h]

theorem nextEvent_nil (s : State) (h : s.pending = []) : nextEvent s = (.idle, s) := by
  simp [nextEvent, h]

/-- The whole samples of `n` bytes number `n / 3`. -/
theorem samples_length (bytes : List Byte) : (samples bytes).length = bytes.length / 3 := by
  induction bytes using samples.induct with
  | case1 sig hi lo rest ih =>
    simp only [samples, List.length_cons, ih]
    omega
  | case2 bytes h =>
    rw [samples.eq_2 bytes h]
    match bytes, h with
    | [], _ => rfl
    | [_], _ => simp
    | [_, _], _ => simp
    | a :: b :: c :: rest, h => exact absurd rfl (h a b c rest)

end Sys2Proof.Machine
end

