-- ==== Sys2Proof/Laws/Exec.lean ====
section
/-! SUPPORT. Each operation that takes an event, on an instance whose run has not ended; `consume` in each
state; and the table's selection of a key. -/

namespace Sys2Proof.Machine

theorem execHdr_open (b : Byte) (s : State) (h : s.closed = false) : execHdr b s = deliver (fsyHdr b s) :=
  acceptEvent_open s _ h

theorem execHdrRej_open (b : Byte) (s : State) (h : s.closed = false) :
    execHdrRej b s = deliver (fsyHdrRej b s) :=
  acceptEvent_open s _ h

theorem execLenHi_open (b : Byte) (s : State) (h : s.closed = false) :
    execLenHi b s = deliver (fsyLenHi b s) :=
  acceptEvent_open s _ h

theorem execLenLo_open (b : Byte) (s : State) (h : s.closed = false) :
    execLenLo b s = deliver (fsyLenLo b s) :=
  acceptEvent_open s _ h

theorem execPay_open (b : Byte) (s : State) (h : s.closed = false) : execPay b s = deliver (fsyPay b s) :=
  acceptEvent_open s _ h

theorem execCkbHi_open (b : Byte) (s : State) (h : s.closed = false) :
    execCkbHi b s = deliver (fsyCkbHi b s) :=
  acceptEvent_open s _ h

theorem execCkbLo_open (b : Byte) (s : State) (h : s.closed = false) :
    execCkbLo b s = deliver (fsyCkbLo b s) :=
  acceptEvent_open s _ h

theorem execIdle_open (s : State) (h : s.closed = false) : execIdle s = .next (idleEvent s) :=
  acceptEvent_open s _ h

theorem execReset_open (s : State) (h : s.closed = false) : execReset s = .next (resetEvent s) :=
  acceptEvent_open s _ h

theorem execClose_open (s : State) (h : s.closed = false) : execClose s = .next (closeEvent s) :=
  acceptEvent_open s _ h

/-- `STEP` on a byte is `consume` with the block's result. -/
theorem execStepEvent_byte (b : Byte) (s : State) (h : s.closed = false) :
    execStepEvent (.byte b) s = deliver (consume b s) :=
  acceptEvent_open s _ h

theorem execStepEvent_idle (s : State) (h : s.closed = false) :
    execStepEvent .idle s = .next (idleEvent s) :=
  acceptEvent_open s _ h

theorem execStepEvent_reset (s : State) (h : s.closed = false) :
    execStepEvent .reset s = .next (resetEvent s) :=
  acceptEvent_open s _ h

theorem execStepEvent_close (s : State) (h : s.closed = false) :
    execStepEvent .close s = .next (closeEvent s) :=
  acceptEvent_open s _ h

theorem execStepEvent_closed (e : Event) (s : State) (h : s.closed = true) :
    execStepEvent e s = .fault .runEnded :=
  acceptEvent_closed s _ h

/-! `consume` in each state (R100). -/

theorem consume_header {s : State} (h : s.st = .awaitingHeader) :
    consume Config.header s = fsyHdr Config.header s := by
  simp [consume, h]

theorem consume_noHeader {s : State} {b : Byte} (h : s.st = .awaitingHeader) (hb : b ≠ Config.header) :
    consume b s = fsyHdrRej b s := by
  simp [consume, h, hb]

theorem consume_lengthByte1 {s : State} (b : Byte) (h : s.st = .awaitingLengthByte1) :
    consume b s = fsyLenHi b s := by
  simp [consume, h]

theorem consume_lengthByte2 {s : State} (b : Byte) (h : s.st = .awaitingLengthByte2) :
    consume b s = fsyLenLo b s := by
  simp [consume, h]

theorem consume_payload {s : State} (b : Byte) (h : s.st = .accumulatingPayload) :
    consume b s = fsyPay b s := by
  simp [consume, h]

theorem consume_checksumByte1 {s : State} (b : Byte) (h : s.st = .awaitingChecksumByte1) :
    consume b s = fsyCkbHi b s := by
  simp [consume, h]

theorem consume_checksumByte2 {s : State} (b : Byte) (h : s.st = .awaitingChecksumByte2) :
    consume b s = fsyCkbLo b s := by
  simp [consume, h]

/-! The table's selection (R62). -/

theorem mkKey_toNat (c : BitVec 3) (b : Byte) : (mkKey c b).toNat = c.toNat * 256 + b.toNat := by
  simp only [mkKey, BitVec.toNat_append]
  rw [← Nat.shiftLeft_add_eq_or_of_lt b.isLt, Nat.shiftLeft_eq]

theorem keyState_mkKey (c : BitVec 3) (b : Byte) : keyState (mkKey c b) = c := by
  apply BitVec.eq_of_toNat_eq
  have := b.isLt
  have := c.isLt
  simp only [keyState, BitVec.extractLsb'_toNat, mkKey_toNat, Nat.shiftRight_eq_div_pow]
  omega

theorem keyByte_mkKey (c : BitVec 3) (b : Byte) : keyByte (mkKey c b) = b := by
  apply BitVec.eq_of_toNat_eq
  have := b.isLt
  simp only [keyByte, BitVec.extractLsb'_toNat, mkKey_toNat, Nat.shiftRight_eq_div_pow]
  omega

/-- The key of a state code and a byte selects the row of the code; in AwaitingHeader the byte decides. -/
theorem selectRow_sbRows (c : BitVec 3) (b : Byte) :
    selectRow sbRows (mkKey c b) =
      if c = 0 then some (if b = Config.header then .hdr else .hdrRej)
      else if c = 1 then some .lenHi
      else if c = 2 then some .lenLo
      else if c = 3 then some .pay
      else if c = 4 then some .ckbHi
      else if c = 5 then some .ckbLo
      else none := by
  revert c b
  decide

end Sys2Proof.Machine
end

