-- ==== Sys2Proof/Laws/PerInstr.lean ====
section
/-! SUPPORT. Statements for all operations, one lemma for each constructor of Instr. -/

namespace Sys2Proof.Laws.WordFormat

/-- An operation's word has the format of the operation's row, and exactly the INTERNAL rows have no word
(30_encoding.md R75). -/
def Statement (i : Instr) : Prop :=
  (encodeWord i).map OpWord.format = if i.format = .internal then none else some i.format

theorem hdr (b : Byte) : Statement (.hdr b) := rfl
theorem hdrRej (b : Byte) : Statement (.hdrRej b) := rfl
theorem lenHi (b : Byte) : Statement (.lenHi b) := rfl
theorem lenLo (b : Byte) : Statement (.lenLo b) := rfl
theorem pay (b : Byte) : Statement (.pay b) := rfl
theorem ckbHi (b : Byte) : Statement (.ckbHi b) := rfl
theorem ckbLo (b : Byte) : Statement (.ckbLo b) := rfl
theorem idle : Statement .idle := rfl
theorem reset : Statement .reset := rfl
theorem close : Statement .close := rfl
theorem cmdDist (data : List Byte) : Statement (.cmdDist data) := rfl
theorem cmdSpeed (data : List Byte) : Statement (.cmdSpeed data) := rfl
theorem cmdUnsup (sel : Byte) : Statement (.cmdUnsup sel) := rfl
theorem demux (payload : List Byte) : Statement (.demux payload) := rfl
theorem ckInit (b : Byte) : Statement (.ckInit b) := rfl
theorem ckFold (c : Word) (b : Byte) : Statement (.ckFold c b) := rfl
theorem ckSum (bytes : List Byte) : Statement (.ckSum bytes) := rfl
theorem stepEvent (e : Event) : Statement (.stepEvent e) := rfl

end Sys2Proof.Laws.WordFormat
end

