-- ==== Sys2Proof/Laws/Run.lean ====
section
/-! SUPPORT. Runs, event by event, finite and endless; the hand-off queue, result by result. -/

namespace Sys2Proof.Machine

/-- On an open run `STEP` answers next, with a result. -/
theorem execStepEvent_total (e : Event) (s : State) (h : s.closed = false) :
    ∃ t r, execStepEvent e s = .next t ∧ t.result = some r := by
  cases e with
  | idle => exact ⟨_, _, execStepEvent_idle s h, rfl⟩
  | reset => exact ⟨_, _, execStepEvent_reset s h, rfl⟩
  | close => exact ⟨_, _, execStepEvent_close s h, rfl⟩
  | byte b => exact ⟨_, _, execStepEvent_byte b s h, rfl⟩

@[simp] theorem run_nil (s : State) : run [] s = ([], s) := rfl

/-- A run goes on with the state after its first event. -/
theorem run_cons_next {e : Event} {rest : List Event} {s t : State} {r : Result}
    (h : execStepEvent e s = .next t) (hr : t.result = some r) :
    run (e :: rest) s = (r :: (run rest t).1, (run rest t).2) := by
  simp [run, h, hr]

/-- A run that has ended gives nothing more (R143). -/
theorem run_closed (events : List Event) (s : State) (h : s.closed = true) : run events s = ([], s) := by
  cases events with
  | nil => rfl
  | cons e rest => simp only [run, execStepEvent_closed e s h]

/-- A run over two sequences is the run over the second from where the first ends. -/
theorem run_append (a b : List Event) (s : State) :
    run (a ++ b) s = ((run a s).1 ++ (run b (run a s).2).1, (run b (run a s).2).2) := by
  induction a generalizing s with
  | nil => simp
  | cons e rest ih =>
    cases hc : s.closed with
    | true => rw [List.cons_append, run_closed _ _ hc, run_closed _ _ hc]; simp [run_closed _ _ hc]
    | false =>
      obtain ⟨t, r, ht, hr⟩ := execStepEvent_total e s hc
      rw [List.cons_append, run_cons_next ht hr, run_cons_next ht hr, ih]
      simp

/-! Endless runs. -/

@[simp] theorem firstEvents_zero (events : Nat → Event) : firstEvents events 0 = [] := rfl

theorem firstEvents_succ (events : Nat → Event) (n : Nat) :
    firstEvents events (n + 1) = firstEvents events n ++ [events n] := by
  simp [firstEvents, List.range_succ]

@[simp] theorem endlessState_zero (events : Nat → Event) (s : State) :
    endlessState events s 0 = some s := rfl

/-- Once the run has ended there are no more states. -/
theorem endlessState_succ_none {events : Nat → Event} {s : State} {n : Nat}
    (h : endlessState events s n = none) : endlessState events s (n + 1) = none := by
  simp [endlessState, h]

theorem endlessState_succ_next {events : Nat → Event} {s t t' : State} {n : Nat}
    (h : endlessState events s n = some t) (ht : execStepEvent (events n) t = .next t') :
    endlessState events s (n + 1) = some t' := by
  simp [endlessState, h, ht]

theorem endlessState_succ_closed {events : Nat → Event} {s t : State} {n : Nat}
    (h : endlessState events s n = some t) (hc : t.closed = true) :
    endlessState events s (n + 1) = none := by
  simp [endlessState, h, execStepEvent_closed _ _ hc]

theorem endlessResults_succ (events : Nat → Event) (s : State) (n : Nat) :
    endlessResults events s (n + 1) = endlessResults events s n ++ (endlessTrace events s n).toList := by
  simp only [endlessResults, List.range_succ, List.filterMap_append]
  cases h : endlessTrace events s n <;> simp [h]

/-! The hand-off queue. -/

@[simp] theorem HandOff.takeAll_nil (p : Config.OpenParams) (q : HandOff) : q.takeAll p [] = some q := rfl

theorem HandOff.takeAll_cons (p : Config.OpenParams) (q : HandOff) (r : Result) (rest : List Result) :
    q.takeAll p (r :: rest) = (q.take p r).bind fun q' => q'.takeAll p rest := by
  simp only [HandOff.takeAll]
  cases q.take p r <;> rfl

/-- All that one result can do to the queue (R147). -/
theorem HandOff.take_spec {p : Config.OpenParams} {q q' : HandOff} {r : Result} (h : q.take p r = some q') :
    q'.waiting = q.waiting ++ packetsOf [r] ∧ (q'.closed = true ↔ q.closed = true ∨ r = .ended) := by
  cases r with
  | packet packet =>
    simp only [HandOff.take, hostAction] at h
    split at h
    · injection h with h; subst h; simp [packetsOf]
    · cases h
  | incomplete | frameError _ | packetError _ | ended =>
    simp only [HandOff.take, hostAction, Option.some.injEq] at h
    subst h
    simp [packetsOf]

end Sys2Proof.Machine
end

