-- ==== Sys2Proof/Tests/Slice0.lean ====
section
/-! SUPPORT. Tests: words written out from the tables of 30_encoding.md, vectors of 95_test_vectors.md and
96_test_vectors_fsy_sequences.md (the id stands in each comment), the refusals of `Instr.wf`, and for every
obligation with hypotheses a state and operands that meet them. -/

namespace Sys2Proof.Tests

open Sys2Proof Sys2Proof.Machine

/-! ### Ill-formed terms are refused -/

theorem test_wf_hdr_other_byte : (Instr.hdr 0x55).wf = false := by decide
theorem test_wf_hdrRej_header : (Instr.hdrRej 0xAA).wf = false := by decide
theorem test_wf_cmdUnsup_distance : (Instr.cmdUnsup 0xAD).wf = false := by decide
theorem test_wf_cmdUnsup_speed : (Instr.cmdUnsup 0xAE).wf = false := by decide
theorem test_wf_cmdDist_too_long : (Instr.cmdDist (List.replicate 65531 0)).wf = false := by
  simp only [Instr.wf, List.length_replicate]; decide
theorem test_wf_cmdSpeed_too_long : (Instr.cmdSpeed (List.replicate 65531 0)).wf = false := by
  simp only [Instr.wf, List.length_replicate]; decide
theorem test_wf_demux_too_long : (Instr.demux (List.replicate 65533 0)).wf = false := by
  simp only [Instr.wf, List.length_replicate]; decide
theorem test_wf_longest_data :
    (Instr.cmdDist (List.replicate 65530 0)).wf = true ∧
      (Instr.demux (List.replicate 65532 0)).wf = true := by
  simp only [Instr.wf, List.length_replicate]; decide

/-! ### Decoding: each word is written out from the table, `key = st[2:0] ++ b[7:0]` (R62), the event codes
(R61) and the selectors (R69) -/

/-- `000 10101010`. -/
theorem test_decode_hdr : decode .sb [0b000, 0b10101010] = .ok (.hdr 0xAA) := by rfl
/-- `000 01010101`. -/
theorem test_decode_hdrRej : decode .sb [0b000, 0b01010101] = .ok (.hdrRej 0x55) := by rfl
/-- `001 10101010`: a header value is a length byte here (V-FSY-7). -/
theorem test_decode_lenHi : decode .sb [0b001, 0b10101010] = .ok (.lenHi 0xAA) := by rfl
/-- `010 00000101`. -/
theorem test_decode_lenLo : decode .sb [0b010, 0b00000101] = .ok (.lenLo 5) := by rfl
/-- `011 11111111`. -/
theorem test_decode_pay : decode .sb [0b011, 0b11111111] = .ok (.pay 0xFF) := by rfl
/-- `100 00000001`. -/
theorem test_decode_ckbHi : decode .sb [0b100, 0b00000001] = .ok (.ckbHi 1) := by rfl
/-- `101 01100101`. -/
theorem test_decode_ckbLo : decode .sb [0b101, 0b01100101] = .ok (.ckbLo 0x65) := by rfl
theorem test_decode_idle : decode .ev [0b00] = .ok .idle := by rfl
theorem test_decode_reset : decode .ev [0b10] = .ok .reset := by rfl
theorem test_decode_close : decode .ev [0b11] = .ok .close := by rfl
/-- `1010 1101`, then the command data of V-PDX-12. -/
theorem test_decode_cmdDist : decode .sel [0b10101101, 0x07] = .ok (.cmdDist [0x07]) := by rfl
/-- `1010 1110`, then the command data of V-PDX-22. -/
theorem test_decode_cmdSpeed : decode .sel [0b10101110, 0x00] = .ok (.cmdSpeed [0x00]) := by rfl
/-- `1010 1111`, the neighbour above (V-PDX-25). -/
theorem test_decode_cmdUnsup : decode .sel [0b10101111, 0x00] = .ok (.cmdUnsup 0xAF) := by rfl
/-- State codes 6 and 7 have no row (R62). -/
theorem test_decode_reserved_states :
    decode .sb [0b110, 0xAA] = .error (.reservedStateCode 6) ∧
      decode .sb [0b111, 0x00] = .error (.reservedStateCode 7) := ⟨rfl, rfl⟩
/-- `BYTE(b)` is no EV row (R75). -/
theorem test_decode_byteEvent : decode .ev [0b01] = .error .byteEventNeedsKey := by rfl
/-- Bits above the key and above the event code, and a wrong number of bytes. -/
theorem test_decode_stray :
    decode .sb [0b1000, 0x00] = .error .strayBits ∧ decode .ev [0b100] = .error .strayBits ∧
      decode .sb [0b000] = .error (.wrongLength 1) := ⟨rfl, rfl, rfl⟩
/-- DEMUX, CK_INIT, CK_FOLD, CK_SUM and STEP have no word (R75). -/
theorem test_decode_internal : decode .internal [0x00] = .error .noEncoding ∧
    encode (.demux []) = none ∧ encode (.ckInit 0) = none ∧ encode (.ckFold 0 0) = none ∧
    encode (.ckSum []) = none ∧ encode (.stepEvent .idle) = none := ⟨rfl, rfl, rfl, rfl, rfl, rfl⟩

/-- The table's own words, as opcode_table.json numbers them. -/
theorem test_table_words :
    decodeTableWord 16 0x0AA = some (.hdr 0xAA) ∧ decodeTableWord 16 0x000 = some (.hdrRej 0) ∧
    decodeTableWord 16 0x100 = some (.lenHi 0) ∧ decodeTableWord 16 0x500 = some (.ckbLo 0) ∧
    decodeTableWord 8 0 = some .idle ∧ decodeTableWord 8 2 = some .reset ∧
    decodeTableWord 8 3 = some .close ∧ decodeTableWord 8 0xAD = some (.cmdDist [0]) ∧
    decodeTableWord 8 0xAE = some (.cmdSpeed [0]) ∧ decodeTableWord 8 0xAC = some (.cmdUnsup 0xAC) := by
  decide

/-! ### States -/

/-- A buffer with these bytes, in a state on its way through a frame. -/
def mid (st : SyncState) (ck len : Word) (bytes : List Byte) (rxh : Byte) : State :=
  { State.reset with st := st, ck := ck, len := len, buf := Memory.ofBytes bytes, rxh := rxh }

/-- L1 of V-FSY-6. -/
def stL1 : State := mid .awaitingLengthByte1 0x00AA 0xFF12 [] 0
/-- L2 of V-FSY-9 to 12, with a low byte of `len` that is still dead. -/
def stL2 : State := mid .awaitingLengthByte2 0x00AA 0x0012 [0x99] 0
/-- AP of V-FSY-16. -/
def stAP : State := mid .accumulatingPayload 0x00B0 6 [] 0
/-- AP of V-FSY-18. -/
def stLast : State := mid .accumulatingPayload 0x015E 6 [0x01, 0xAD] 0
/-- C1 of V-FSY-21. -/
def stC1 : State := mid .awaitingChecksumByte1 0x0165 6 [0x01, 0xAD, 0x07] 0
/-- C2 of V-FSY-31, step 8, before its last byte. -/
def stC2 : State := mid .awaitingChecksumByte2 0x0165 6 [0x01, 0xAD, 0x07] 0x01
/-- A run that has ended. -/
def stEnded : State := { State.reset with closed := true }

/-- What a step gives and the state it ends in. -/
def seen : StepOutcome → Option (Option Result × SyncState)
  | .next t => some (t.result, t.st)
  | _ => none

/-- The checksum, the length and the buffer's bytes after a step. -/
def regs : StepOutcome → Option (Word × Word × List Byte)
  | .next t => some (t.ck, t.len, t.buf.contents)
  | _ => none

/-! ### The checksum accumulator -/

/-- V-CSA-1, V-CSA-2. -/
theorem test_ckInit : ckInit 0xAA = 0x00AA ∧ ckInit 0x00 = 0x0000 ∧ ckInit 0xFF = 0x00FF := by decide
theorem test_ckInit_destination : regs (exec (.ckInit 0xAA) stC1) =
    some (0x00AA, 6, [0x01, 0xAD, 0x07]) := by decide
/-- V-CSA-3 to V-CSA-8. -/
theorem test_ckFold : ckFold 0x00AA 0x00 = 0x00AA ∧ ckFold 0x00AA 0x09 = 0x00B3 ∧
    ckFold 0x00FF 0x01 = 0x0100 ∧ ckFold 0xFFFF 0x01 = 0 ∧ ckFold 0xFF01 0xFF = 0 ∧
    ckFold 0xFFFF 0xFF = 0x00FE := by decide
/-- V-CSA-5 as an operation. -/
theorem test_ckFold_destination : regs (exec (.ckFold 0x00FF 0x01) stL1) =
    some (0x0100, 0xFF12, []) := by decide
/-- V-CSA-9 to V-CSA-12. -/
theorem test_ckSum : ckSum [] = 0 ∧ ckSum [0xAA, 0x00, 0x09] = 0x00B3 ∧
    ckSum [0xAA, 0x00, 0x06, 0x01, 0xAD, 0x07] = 0x0165 ∧
    ckSum [0x07, 0xAD, 0x01, 0x06, 0x00, 0xAA] = 0x0165 := by decide
/-- V-CSA-10 as an operation. -/
theorem test_ckSum_destination : regs (exec (.ckSum [0xAA, 0x00, 0x09]) stAP) =
    some (0x00B3, 6, []) := by decide

/-! ### The frame synchronizer -/

/-- V-FSY-1. -/
theorem test_hdr : exec (.hdr 0xAA) State.reset = .next
    { State.reset with st := .awaitingLengthByte1, ck := 0x00AA, result := some .incomplete } := by rfl
/-- V-FSY-2, V-FSY-5. -/
theorem test_hdrRej : seen (exec (.hdrRej 0x55) State.reset) =
      some (some (.frameError (.invalidHeader 0x55)), .awaitingHeader) ∧
    seen (exec (.hdrRej 0xAB) State.reset) =
      some (some (.frameError (.invalidHeader 0xAB)), .awaitingHeader) := by decide
/-- V-FSY-7: the low byte of `len` is kept. -/
theorem test_lenHi : regs (exec (.lenHi 0xAA) stL1) = some (0x0154, 0xAA12, []) ∧
    seen (exec (.lenHi 0xAA) stL1) = some (some .incomplete, .awaitingLengthByte2) := by decide
/-- V-FSY-12, with the buffer emptied, and V-FSY-10. -/
theorem test_lenLo : regs (exec (.lenLo 0x06) stL2) = some (0x00B0, 6, []) ∧
    seen (exec (.lenLo 0x05) stL2) =
      some (some (.frameError (.invalidLength 5)), .awaitingHeader) := by decide
/-- V-FSY-13: only the 16-bit value is tested. -/
theorem test_lenLo_high_byte_counts :
    seen (exec (.lenLo 0x00) { stL2 with len := 0x0112 }) =
      some (some .incomplete, .accumulatingPayload) := by decide
/-- V-FSY-17, and V-FSY-18: payload byte number `len − 3` leaves the state. -/
theorem test_pay : seen (exec (.pay 0x01) stAP) = some (some .incomplete, .accumulatingPayload) ∧
    regs (exec (.pay 0x07) stLast) = some (0x0165, 6, [0x01, 0xAD, 0x07]) ∧
    seen (exec (.pay 0x07) stLast) = some (some .incomplete, .awaitingChecksumByte1) := by decide
/-- V-FSY-20: `ck` wraps. -/
theorem test_pay_wraps : regs (exec (.pay 0x05) (mid .accumulatingPayload 0xFFFE 9 [1, 2] 0)) =
    some (0x0003, 9, [1, 2, 5]) := by decide
/-- V-FSY-21: `ck` is not changed. -/
theorem test_ckbHi : exec (.ckbHi 0x01) stC1 = .next
    { stC1 with rxh := 0x01, st := .awaitingChecksumByte2, result := some .incomplete } := by rfl
/-- V-FSY-31, step 8, and V-FSY-25: the high byte counts. -/
theorem test_ckbLo : seen (exec (.ckbLo 0x65) stC2) =
      some (some (.packetError (.frameTooShort 1)), .awaitingHeader) ∧
    seen (exec (.ckbLo 0x65) { stC2 with rxh := 0x00 }) =
      some (some (.frameError (.invalidChecksum 0x0165 0x0065)), .awaitingHeader) := by decide
/-- V-FSY-23. -/
theorem test_ckbLo_speed :
    seen (exec (.ckbLo 0x65) (mid .awaitingChecksumByte2 0x0165 6 [0x01, 0xAE, 0x06] 0x01)) =
      some (some (.packet .lidarSpeed), .awaitingHeader) := by decide

/-! ### The other events -/

/-- V-FSY-29. -/
theorem test_idle : exec .idle (mid .accumulatingPayload 0x01BC 8 [1, 0xAE, 2, 3] 0) = .next
    { mid .accumulatingPayload 0x01BC 8 [1, 0xAE, 2, 3] 0 with result := some .incomplete } := by rfl
/-- V-FSY-R1, V-FSY-R3. -/
theorem test_reset : exec .reset State.reset =
      .next { State.reset with result := some .incomplete } ∧
    seen (exec .reset stC1) = some (some .incomplete, .awaitingHeader) := ⟨rfl, rfl⟩
/-- V-TOP-4: `End`, with no error for the frame in progress. -/
theorem test_close : exec .close stAP =
    .next { stAP with closed := true, result := some .ended } := by rfl
/-- After `CLOSE` no event has a successor state (R143, U12). -/
theorem test_after_close : exec .idle stEnded = .fault .runEnded ∧
    exec (.stepEvent (.byte 0xAA)) stEnded = .fault .runEnded ∧ step stEnded = .fault .runEnded :=
  ⟨rfl, rfl, rfl⟩
/-- V-FSY-1, V-FSY-24 by way of `STEP`. -/
theorem test_stepEvent : seen (exec (.stepEvent (.byte 0xAA)) State.reset) =
      some (some .incomplete, .awaitingLengthByte1) ∧
    seen (exec (.stepEvent (.byte 0x66)) stC2) =
      some (some (.frameError (.invalidChecksum 0x0165 0x0166)), .awaitingHeader) := by decide

/-! ### The packet decoder -/

/-- The distance packet of V-PDX-1 to V-PDX-7. -/
def dist (samples : List Word) : Decoded := .packet (.distance ⟨130, 27000, 135, samples⟩)

/-- V-PDX-7, V-PDX-5, V-PDX-2. -/
theorem test_cmdDist :
    cmdDist [0x00, 0x0B, 0x82, 0x00, 0x87, 0x69, 0x78, 0x10, 0x21, 0x3A, 0x20, 0x23, 0x78] =
      dist [8506, 9080] ∧
    cmdDist [0x00, 0x09, 0x82, 0x00, 0x87, 0x69, 0x78, 0x10, 0x21, 0x3A, 0xEE] = dist [8506] ∧
    cmdDist [0x00, 0x05, 0x82, 0x00, 0x87, 0x69, 0x78] = dist [] := by decide
/-- V-PDX-14, V-PDX-15, V-PDX-16, V-PDX-17, V-PDX-21. -/
theorem test_cmdDist_errors :
    cmdDist [0xFF, 0xFF, 0xFF, 0xFF] = .error (.frameTooShort 4) ∧
    cmdDist [0x00, 0x03, 0x82, 0x00, 0x87] = .error (.frameTooShort 5) ∧
    cmdDist [0x00, 0x04, 0x82, 0x00, 0x87, 0x69] = .error (.frameTooShort 6) ∧
    cmdDist [0x00, 0x04, 0x82, 0x00, 0x87] = .error (.unexpectedFrameLength 3 4) ∧
    cmdDist [0x08, 0x00, 0x82, 0x00, 0x87, 0x69, 0x78, 0x10, 0x21, 0x3A] =
      .error (.unexpectedFrameLength 8 2048) := by decide
/-- V-PDX-23. -/
theorem test_cmdSpeed : exec (.cmdSpeed [0, 1, 2, 3, 4, 5, 6, 7]) stC1 =
    .next { stC1 with result := some (.packet .lidarSpeed) } := by rfl
/-- V-PDX-24. -/
theorem test_cmdUnsup : exec (.cmdUnsup 0xAC) stC1 =
    .next { stC1 with result := some (.packetError (.unsupportedCommandByte 0xAC)) } := by rfl
/-- V-PDX-8, V-PDX-26, V-PDX-27. -/
theorem test_demux :
    demux [0x00, 0xAD, 0x00, 0x08, 0x82, 0x00, 0x87, 0x69, 0x78, 0x10, 0x21, 0x3A] = dist [8506] ∧
    demux [0x01, 0xAA, 0x00, 0x08, 0x82, 0x00, 0x87, 0x69, 0x78, 0x10, 0x21, 0x3A] =
      .error (.unsupportedCommandByte 0xAA) ∧
    demux [0xAD, 0x01, 0xAD] = .error (.unsupportedCommandByte 0x01) := by decide
/-- V-PDX-28, V-PDX-29, V-PDX-30. -/
theorem test_demux_short : demux [] = .error (.frameTooShort 0) ∧
    demux [0x01] = .error (.frameTooShort 1) ∧
    demux [0x01, 0xAD] = .error (.frameTooShort 0) := by decide

/-! ### The step and table words -/

/-- The next event is fetched and decoded with `st`. -/
theorem test_step_fetches : step { stL1 with pending := [.byte 0xAA, .reset] } =
    exec (.lenHi 0xAA) { stL1 with pending := [.reset] } := by rfl
/-- Words of the table run as the first operation after reset; a SEL word runs inside `CKB_LO`. -/
theorem test_placed_words :
    seen (step (State.reset.withFetchWord 16 0x0AA)) = some (some .incomplete, .awaitingLengthByte1) ∧
    seen (step (State.reset.withFetchWord 16 0x3FF)) = some (some .incomplete, .accumulatingPayload) ∧
    seen (step (State.reset.withFetchWord 8 3)) = some (some .ended, .awaitingHeader) ∧
    seen (step (State.reset.withFetchWord 8 0xAE)) =
      some (some (.packet .lidarSpeed), .awaitingHeader) ∧
    seen (step (State.reset.withFetchWord 8 0xAC)) =
      some (some (.packetError (.unsupportedCommandByte 0xAC)), .awaitingHeader) := by decide

/-! ### Numbers, values and the textual notation -/

/-- The numbers of R167 and R76. -/
theorem test_codes : (Result.frameError (.invalidLength 5)).kindCode = 10 ∧
    (Result.packetError (.unexpectedFrameLength 8 7)).kindCode = 14 := by decide
/-- V-PDX-1, X7: 6.5 deg/s, 270.00 deg, 1.35 deg, 2126.5 mm. -/
theorem test_scaled_values :
    Distance.radarSpeed ⟨130, 27000, 135, [8506]⟩ = 13 / 2 ∧
    Distance.startAngle ⟨130, 27000, 135, [8506]⟩ = 270 ∧
    Distance.offsetAngle ⟨130, 27000, 135, [8506]⟩ = 27 / 20 ∧
    Distance.distances ⟨130, 27000, 135, [8506]⟩ = [4253 / 2] := by
  refine ⟨?_, ?_, ?_, congrArg (fun x => [x]) ?_⟩
  · show ((130 : ℕ) : ℚ) / (20 : ℕ) = _; norm_num
  · show ((27000 : ℕ) : ℚ) / (100 : ℕ) = _; norm_num
  · show ((135 : ℕ) : ℚ) / (100 : ℕ) = _; norm_num
  · show ((8506 : ℕ) : ℚ) / (4 : ℕ) = _; norm_num
/-- The wire bytes of V-TOP-1 and of V-TOP-6. -/
theorem test_notation :
    (Item.distance 0x01 0x82 0x0087 0x6978 [(0x10, 0x213A)]).expand =
      [0xAA, 0x00, 0x0F, 0x01, 0xAD, 0x00, 0x08, 0x82, 0x00, 0x87, 0x69, 0x78, 0x10, 0x21, 0x3A, 0x03,
        0xC4].map .byte ∧
    (Item.frameBadck 0x01 0xAF [0x00]).expand =
      [0xAA, 0x00, 0x06, 0x01, 0xAF, 0x00, 0x01, 0x61].map .byte := by decide
theorem test_reset_memory_wf : State.reset.buf.wf = true := by decide

/-! ### Witnesses: for each obligation with hypotheses, what meets them, clause by clause -/

/-- The minimum frame (V-FSY-31), and the frame of V-TOP-7 with a whole fixed part and no sample. -/
def minFrame : List Byte := [0xAA, 0x00, 0x06, 0x01, 0xAD, 0x07, 0x01, 0x65]
def fixedFrame : List Byte :=
  [0xAA, 0x00, 0x0C, 0x01, 0xAD, 0x00, 0x05, 0x82, 0x00, 0x87, 0x69, 0x78, 0x03, 0x53]

theorem wit_StepRunsDecodedOperation :
    ({ stL1 with pending := [.byte 0xAA] } : State).pending = .byte 0xAA :: [] ∧
    decodeWord (selectWord stL1.st (.byte 0xAA)) = .ok (.lenHi 0xAA) ∧ stL1.pending = [] := ⟨rfl, rfl, rfl⟩
theorem wit_SelectorSelectsDecodeOperation :
    ([] : List Byte).length ≤ 65530 ∧ (List.replicate 65530 (0 : Byte)).length ≤ 65530 := by
  simp only [List.length_replicate, List.length_nil]; decide
theorem wit_DecodeOfEncodeIsIdentity :
    ((Instr.hdr 0xAA).wf = true ∧ (Instr.hdr 0xAA).format ≠ .internal ∧
      encode (.hdr 0xAA) = some [0x00, 0xAA]) ∧
    (Instr.cmdDist (List.replicate 65530 0)).wf = true ∧ (Instr.ckSum []).wf = true := by
  refine ⟨by decide, ?_, by decide⟩
  simp only [Instr.wf, List.length_replicate]; decide
theorem wit_DecodedBytesEncodeBack :
    decode .ev [0x03] = .ok .close ∧ decode .sel [0xAF, 0x00] = .ok (.cmdUnsup 0xAF) := ⟨rfl, rfl⟩
theorem wit_StepEventRunsSelectedOperation : stC2.closed = false ∧
    decodeWord (selectWord stC2.st (.byte 0x65)) = .ok (.ckbLo 0x65) ∧
    decodeWord (selectWord stC2.st .idle) = .ok .idle ∧
    decodeWord (selectWord stC2.st .reset) = .ok .reset ∧
    decodeWord (selectWord stC2.st .close) = .ok .close := ⟨rfl, rfl, rfl, rfl, rfl⟩
theorem wit_StepResultComposesFsyAndPdx : State.reset.closed = false := by decide
theorem wit_ChecksumLaws : ([1, 2] : List Byte).Perm [2, 1] ∧ (0x33 : Byte) ≠ 0x37 := by decide
theorem wit_HdrSeedsChecksum : State.reset.closed = false ∧ State.reset.st = .awaitingHeader := by decide
theorem wit_HdrRejRejectsEachByte : State.reset.closed = false ∧ State.reset.st = .awaitingHeader ∧
    (0xAB : Byte) ≠ 0xAA ∧ ∀ b ∈ ([0x00, 0x55, 0xFF] : List Byte), b ≠ 0xAA := by decide
theorem wit_LenHiTakesHighByte : stL1.closed = false ∧ stL1.st = .awaitingLengthByte1 := by decide
theorem wit_LenLoAcceptsSixOrMore : stL2.closed = false ∧ stL2.st = .awaitingLengthByte2 ∧
    6 ≤ stL2.len.toNat / 256 * 256 + (0x06 : Byte).toNat ∧
    6 ≤ ({ stL2 with len := 0xFF00 } : State).len.toNat / 256 * 256 + (0xFF : Byte).toNat := by decide
theorem wit_LenLoRejectsBelowSix : stL2.closed = false ∧ stL2.st = .awaitingLengthByte2 ∧
    stL2.len.toNat / 256 * 256 + (0x05 : Byte).toNat < 6 ∧
    stL2.len.toNat / 256 * 256 + (0x00 : Byte).toNat < 6 := by decide
theorem wit_PayStoresByte : stLast.closed = false ∧ stLast.st = .accumulatingPayload ∧
    stLast.buf.wf = true ∧ stLast.cnt + 1 + 3 = stLast.len.toNat ∧
    stAP.st = .accumulatingPayload ∧ stAP.buf.wf = true ∧ stAP.cnt + 1 + 3 ≠ stAP.len.toNat := by decide
theorem wit_CkbHiStoresHighByte : stC1.closed = false ∧ stC1.st = .awaitingChecksumByte1 := by decide
theorem wit_CkbLoJudgesFrame : stC2.closed = false ∧ stC2.st = .awaitingChecksumByte2 ∧
    be16 stC2.rxh 0x65 = stC2.ck ∧ be16 stC2.rxh 0x66 ≠ stC2.ck := by decide
theorem wit_CkbLoDecodesFinishedFrame : stC2.closed = false ∧ stC2.st = .awaitingChecksumByte2 ∧
    be16 stC2.rxh 0x65 = stC2.ck ∧
    exec (.demux stC2.buf.contents) stC2 =
      .next { stC2 with result := some (.packetError (.frameTooShort 1)) } :=
  ⟨rfl, rfl, by decide, rfl⟩
theorem wit_IdleChangesNothing : stC2.closed = false := by decide
theorem wit_ResetReturnsToAwaitingHeader : stC2.closed = false ∧ State.reset.closed = false ∧
    State.reset.st = .awaitingHeader := by decide
theorem wit_CloseEndsRun : stAP.closed = false := by decide
theorem wit_EventAfterCloseStops : stEnded.closed = true ∧ takesEvent (.hdr 0xAA) = true ∧
    takesEvent .idle = true ∧ takesEvent (.stepEvent .reset) = true := by decide
/-- The data of V-PDX-13, V-PDX-17, V-PDX-18, V-PDX-15 and V-PDX-16: 4, 5, 10, 5 and 6 bytes. -/
theorem wit_CmdDistErrorsInOrder :
    ([0x00, 0x02, 0x82, 0x00] : List Byte).length < 5 ∧
    (5 ≤ ([0x00, 0x04, 0x82, 0x00, 0x87] : List Byte).length ∧ (be16 0x00 0x04).toNat ≠ 5 - 2) ∧
    (be16 0x00 0x07).toNat ≠ 10 - 2 ∧
    (5 ≤ ([0x00, 0x03, 0x82, 0x00, 0x87] : List Byte).length ∧ (be16 0x00 0x03).toNat = 5 - 2) ∧
    (([0x00, 0x04, 0x82, 0x00, 0x87, 0x69] : List Byte).length < 7 ∧
      (be16 0x00 0x04).toNat = 6 - 2) := by decide
/-- The data of V-PDX-2, the smallest; the longest are those of V-TOP-9, `n = 65530` and `eff = 0xFFF8`. -/
def fixedData : List Byte := [0x00, 0x05, 0x82, 0x00, 0x87, 0x69, 0x78]
theorem wit_CmdDistDecodesFields : fixedData.length ≤ 65530 ∧ 7 ≤ fixedData.length ∧
    (be16 (fixedData.getD 0 0) (fixedData.getD 1 0)).toNat = fixedData.length - 2 ∧
    (be16 0xFF 0xF8).toNat = 65530 - 2 := by decide
/-- The data of V-PDX-6, one sample and two leftover bytes. -/
def sampleData : List Byte :=
  [0x00, 0x0A, 0x82, 0x00, 0x87, 0x69, 0x78, 0x10, 0x21, 0x3A, 0xEE, 0xEE]
theorem wit_CmdDistDecodesWholeTriples : sampleData.length ≤ 65530 ∧ 7 ≤ sampleData.length ∧
    (be16 (sampleData.getD 0 0) (sampleData.getD 1 0)).toNat = sampleData.length - 2 ∧
    0 < (sampleData.length - 7) / 3 := by decide
theorem wit_CmdUnsupReportsSelector : (0xAC : Byte) ≠ 0xAD ∧ (0xAC : Byte) ≠ 0xAE ∧
    (0xAF : Byte) ≠ 0xAD ∧ (0xAF : Byte) ≠ 0xAE ∧ ([0x00] : List Byte).length ≤ 65530 := by decide
theorem wit_DemuxRunsSelectedOperation : ([0x01] : List Byte).length < 2 ∧
    ([0x01] : List Byte).length ≤ 65532 ∧ ([0x01, 0xAD] : List Byte).length ≤ 65532 ∧
    decodeWord (.sel 0xAD []) = .ok (.cmdDist []) := ⟨by decide, by decide, by decide, rfl⟩
theorem wit_DiscardedBytesAreIgnored : fixedData.length = 7 ∧
    ([0x10, 0x21, 0x3A] : List Byte).length % 3 = 0 ∧ ([0xEE, 0xEE] : List Byte).length < 3 := by decide
theorem wit_FramingErrorsHaveTheirCauses :
    (State.reset.st = .awaitingHeader ∧ (0xAB : Byte) ≠ 0xAA) ∧
    (stL2.st = .awaitingLengthByte2 ∧ (5 : Word).toNat = stL2.len.toNat / 256 * 256 + (5 : Byte).toNat ∧
      (5 : Word).toNat < 6) ∧
    (stC2.st = .awaitingChecksumByte2 ∧
      (0x0166 : Word).toNat = stC2.rxh.toNat * 256 + (0x66 : Byte).toNat ∧ (0x0166 : Word) ≠ stC2.ck) := by
  decide

/-- A state one byte before the end of a frame that R28 allows. -/
theorem inv_of_checksumByte2 (ck len : Word) (bytes : List Byte) (rxh : Byte)
    (hwf : (Memory.ofBytes bytes).wf = true) (hcap : (Memory.ofBytes bytes).length ≤ Config.bufCap)
    (hmin : Config.lenMin ≤ len.toNat) (hlen : (Memory.ofBytes bytes).length + 3 = len.toNat)
    (hck : ck = ckSum (Config.header :: hiByte len :: loByte len :: (Memory.ofBytes bytes).contents)) :
    Inv (mid .awaitingChecksumByte2 ck len bytes rxh) :=
  ⟨hwf, hcap, ⟨hmin, hlen⟩, fun _ => hck⟩

/-- `FrameTooShort(6)`, the largest, from the payload of V-PDX-16. -/
theorem wit_DecodeErrorOperandsFromFrames_largest :
    Inv (mid .awaitingChecksumByte2 0x02D9 11 [0x01, 0xAD, 0x00, 0x04, 0x82, 0x00, 0x87, 0x69] 0x02) ∧
    seen (exec (.ckbLo 0xD9)
        (mid .awaitingChecksumByte2 0x02D9 11 [0x01, 0xAD, 0x00, 0x04, 0x82, 0x00, 0x87, 0x69] 0x02)) =
      some (some (.packetError (.frameTooShort 6)), .awaitingHeader) :=
  ⟨inv_of_checksumByte2 _ _ _ _ (by decide) (by decide) (by decide) (by decide) (by decide), by decide⟩

/-- `FrameTooShort(1)`, `UnsupportedCommandByte(0xAF)` (V-TOP-7) and `UnexpectedFrameLength(3, 4)`
(V-PDX-17). -/
theorem wit_DecodeErrorOperandsFromFrames :
    (Inv stC2 ∧ seen (exec (.ckbLo 0x65) stC2) =
      some (some (.packetError (.frameTooShort 1)), .awaitingHeader)) ∧
    (Inv (mid .awaitingChecksumByte2 0x0160 6 [0x01, 0xAF, 0x00] 0x01) ∧
      seen (exec (.ckbLo 0x60) (mid .awaitingChecksumByte2 0x0160 6 [0x01, 0xAF, 0x00] 0x01)) =
        some (some (.packetError (.unsupportedCommandByte 0xAF)), .awaitingHeader)) ∧
    (Inv (mid .awaitingChecksumByte2 0x026F 10 [0x01, 0xAD, 0x00, 0x04, 0x82, 0x00, 0x87] 0x02) ∧
      seen (exec (.ckbLo 0x6F)
          (mid .awaitingChecksumByte2 0x026F 10 [0x01, 0xAD, 0x00, 0x04, 0x82, 0x00, 0x87] 0x02)) =
        some (some (.packetError (.unexpectedFrameLength 3 4)), .awaitingHeader)) :=
  ⟨⟨inv_of_checksumByte2 _ _ _ _ (by decide) (by decide) (by decide) (by decide) (by decide), by decide⟩,
   ⟨inv_of_checksumByte2 _ _ _ _ (by decide) (by decide) (by decide) (by decide) (by decide), by decide⟩,
   ⟨inv_of_checksumByte2 _ _ _ _ (by decide) (by decide) (by decide) (by decide) (by decide), by decide⟩⟩
theorem wit_ResultKindsComeFromTheirStates :
    seen (exec (.stepEvent .close) stC2) = some (some .ended, .awaitingChecksumByte2) ∧
    seen (exec (.stepEvent (.byte 0xAB)) State.reset) =
      some (some (.frameError (.invalidHeader 0xAB)), .awaitingHeader) ∧
    seen (exec (.stepEvent (.byte 0x05)) stL2) =
      some (some (.frameError (.invalidLength 5)), .awaitingHeader) ∧
    seen (exec (.stepEvent (.byte 0x65)) stC2) =
      some (some (.packetError (.frameTooShort 1)), .awaitingHeader) ∧
    seen (exec (.stepEvent (.byte 0x07)) stLast) =
      some (some .incomplete, .awaitingChecksumByte1) ∧
    seen (exec (.stepEvent .reset) stLast) = some (some .incomplete, .awaitingHeader) := by decide
theorem wit_StepIsTotalUntilClose : State.reset.closed = false ∧ stEnded.closed = true := by decide
/-- A state the invariant allows in each class of states, with a step from it. -/
theorem wit_StepKeepsInvariant : Inv stLast ∧ Inv stL2 ∧ Inv State.reset ∧
    seen (step stLast) = some (some .incomplete, .accumulatingPayload) :=
  ⟨⟨by decide, by decide, ⟨by decide, by decide⟩, fun _ => by decide⟩,
   ⟨by decide, by decide, trivial, fun _ => by decide⟩,
   ⟨by decide, by decide, trivial, fun h => absurd rfl h⟩, by decide⟩
/-- Two states that differ in `len`, `rxh`, the free-value count and the last result, all dead in L1. -/
theorem wit_DeadRegistersAreUnobservable :
    LiveEq stL1 { stL1 with len := 0, rxh := 7, buf := [], free := 5, result := some .incomplete } ∧
    stL1 ≠ { stL1 with len := 0, rxh := 7, buf := [], free := 5, result := some .incomplete } :=
  ⟨⟨rfl, rfl, rfl, rfl⟩, by decide⟩
theorem wit_EveryResetLeavesTheSameState :
    seen (exec .reset stC2) = some (some .incomplete, .awaitingHeader) ∧
    (consume 0x65 stC2).2 ≠ .incomplete ∧ (consume 0x66 stC2).2 ≠ .incomplete ∧
    (consume 0x05 stL2).2 ≠ .incomplete ∧ (consume 0xAB State.reset).2 ≠ .incomplete := by decide
theorem wit_RegistersHaveTheirWriters :
    regs (exec (.stepEvent (.byte 0xAA)) stL1) = some (0x0154, 0xAA12, []) ∧
    regs (exec (.stepEvent (.byte 0x07)) stLast) = some (0x0165, 6, [0x01, 0xAD, 0x07]) ∧
    seen (exec (.stepEvent (.byte 0x02)) stC1) = some (some .incomplete, .awaitingChecksumByte2) := by
  decide
theorem wit_OtherOperationsKeepBuffer :
    regs (exec (.ckbHi 0x01) stC1) = some (0x0165, 6, [0x01, 0xAD, 0x07]) ∧
    regs (exec (.demux [0x01]) stC1) = some (0x0165, 6, [0x01, 0xAD, 0x07]) ∧
    regs (exec .close stC1) = some (0x0165, 6, [0x01, 0xAD, 0x07]) := by decide
theorem wit_OnlyCloseEndsRun : seen (exec .close stC1) = some (some .ended, .awaitingChecksumByte1) ∧
    seen (exec (.ckInit 0) stEnded) = some (none, .awaitingHeader) := by decide
theorem wit_PositionAdvancesByOne : (consume 0x07 stLast).2 = .incomplete ∧
    (consume 0x65 stC2).2 ≠ .incomplete := by decide
theorem wit_WellFormedFrameGivesOneResult : State.reset.closed = false ∧
    State.reset.st = .awaitingHeader ∧ wellFormedFrame minFrame = true := by decide
theorem wit_NextFrameParsesAfterAnyError :
    seen (exec (.stepEvent (.byte 0x66)) stC2) =
      some (some (.frameError (.invalidChecksum 0x0165 0x0166)), .awaitingHeader) ∧
    seen (exec (.stepEvent (.byte 0x65)) stC2) =
      some (some (.packetError (.frameTooShort 1)), .awaitingHeader) ∧
    wellFormedFrame minFrame = true := by decide
theorem wit_OnePayloadByteChangeIsRejected : State.reset.closed = false ∧
    State.reset.st = .awaitingHeader ∧ (0x33 : Byte) ≠ 0x37 ∧
    3 ≤ ([0x01, 0xAE] ++ 0x33 :: [] : List Byte).length ∧
    ([0x01, 0xAE] ++ (0x33 : Byte) :: List.replicate 65529 0).length ≤ 65532 := by
  simp only [List.length_append, List.length_cons, List.length_replicate, List.length_nil]; decide
theorem wit_BuiltFrameIsWellFormed : 3 ≤ ([0x01, 0xAD, 0x07] : List Byte).length ∧
    (List.replicate 65532 (0xFF : Byte)).length ≤ 65532 := by
  simp only [List.length_replicate]; decide
theorem wit_WellFormedDistanceFrameDecodes : State.reset.closed = false ∧
    State.reset.st = .awaitingHeader ∧ wellFormedDistance fixedFrame = true := by decide
theorem wit_FalseHeaderSwallowsBytes : State.reset.closed = false ∧
    State.reset.st = .awaitingHeader ∧ (be16 0x00 0x05).toNat < 6 ∧
    6 ≤ (be16 0x00 0x06).toNat ∧ ([1, 2, 3, 4] : List Byte).length + 2 ≤ (be16 0x00 0x06).toNat := by
  decide
theorem wit_IdleEventsAreInvisible : State.reset.closed = false ∧
    .close ∉ [Event.byte 0xAA, .idle] := by decide
theorem wit_RunIsTheMachinesSteps : State.reset.closed = false ∧
    .close ∉ [Event.byte 0xAA, .reset] := by decide
theorem wit_RunEndsAtFirstClose : State.reset.closed = false ∧ .close ∉ [Event.byte 0xAA] := by decide
theorem wit_FsyReturnsToAwaitingHeader : (consume 0x65 stC2).1.st = .awaitingHeader ∧
    (consume 0x01 stC1).1.st ≠ .awaitingHeader := by decide
theorem wit_ScaledValuesInRange : (⟨0, 0, 0, [8506]⟩ : Distance).distRaw[0]? = some 8506 ∧
    (0 : ℚ) ∈ Distance.distances ⟨0, 0, 0, [0]⟩ :=
  ⟨rfl, by simp [Distance.distances]⟩

/-- Two sequences that do not end: headers for ever, and the same with `CLOSE` as event 2. -/
def headers : Nat → Event := fun _ => .byte 0xAA
def closeAtTwo : Nat → Event := fun n => if n = 2 then .close else .byte 0xAA
theorem wit_EndlessRunContinuesItsBeginnings : State.reset.closed = false ∧
    (∀ k, k < 3 → headers k ≠ .close) ∧ (∃ k, k < 3 ∧ closeAtTwo k = .close) :=
  ⟨rfl, fun _ _ => by simp [headers], 2, by decide⟩
/-- R143: `End` is the last result, at the first `CLOSE`. -/
theorem test_endless_closed : (endlessTrace closeAtTwo State.reset 1, endlessTrace closeAtTwo State.reset 2,
    endlessTrace closeAtTwo State.reset 3) = (some .incomplete, some .ended, none) := by decide

/-- Open parameters with a queue of depth `depth`. -/
def params (depth : Option Nat) : Config.OpenParams :=
  { floatFmt := ⟨32, fun _ => 0⟩, readTimeout := 1 / 2, queueDepth := depth }
theorem wit_HandOffKeepsCompletionOrder :
    (⟨[], false⟩ : HandOff).takeAll (params (some 1)) [.incomplete, .packet .lidarSpeed, .ended] =
      some ⟨[.lidarSpeed], true⟩ ∧
    (params none).queueDepth = none ∧
    (params (some 1)).queueDepth = some 1 ∧
    0 + (packetsOf [.incomplete, .packet .lidarSpeed, .ended]).length ≤ 1 := by decide
/-- R149, R150: the full queue has no successor; exhaustion comes after the last Packet. -/
theorem test_handOff : (⟨[.lidarSpeed], false⟩ : HandOff).take (params (some 1)) (.packet .lidarSpeed) = none ∧
    (⟨[.lidarSpeed], true⟩ : HandOff).consume = (.packet .lidarSpeed, ⟨[], true⟩) ∧
    (⟨[], true⟩ : HandOff).consume.1 = .exhausted ∧ (⟨[], false⟩ : HandOff).consume.1 = .suspended := by
  decide
/-- R6: the sample timeout is sub-second. -/
theorem test_params_allowed : (params none).Allowed := by
  constructor <;> norm_num [params]

end Sys2Proof.Tests
end

section
/-! The selector table (30_encoding.md R69). -/

namespace Sys2Proof.Machine

/-- The first row decides where it matches; elsewhere the rows after it do (R62, R75). -/
theorem selectRow_cons {ω : Type} {n : Nat} (r : Row ω n) (rows : List (Row ω n)) (w : BitVec n) :
    selectRow (r :: rows) w = if w &&& r.mask = r.pattern then some r.op else selectRow rows w := by
  by_cases h : w &&& r.mask = r.pattern <;> simp [selectRow, h]

/-- The rows with the full mask compare the whole selector, and the last row matches each one that is left. -/
theorem selectRow_selRows (sel : Byte) :
    selectRow selRows sel =
      some (if sel = 0xAD then .cmdDist else if sel = 0xAE then .cmdSpeed else .cmdUnsup) := by
  have full : sel &&& 0xFF = sel := BitVec.and_allOnes
  have none_of : sel &&& 0x00 = 0x00 := BitVec.and_zero
  simp only [selRows, selectRow_cons, full, none_of, if_true]
  split_ifs <;> rfl

theorem decodeSel_eq (sel : Byte) (data : List Byte) :
    decodeSel sel data =
      if sel = 0xAD then .cmdDist data else if sel = 0xAE then .cmdSpeed data else .cmdUnsup sel := by
  simp only [decodeSel, selectRow_selRows]
  split_ifs <;> rfl

/-- A selector word decodes by its row when a payload can carry its command data (R64). -/
theorem decodeWord_sel (sel : Byte) (data : List Byte) (h : data.length ≤ dataMax) :
    decodeWord (.sel sel data) = .ok (decodeSel sel data) :=
  if_pos h

/-- Settles O6: the word decodes by the row its selector selects, and the table is the rule's. -/
theorem selectorSelectsDecodeOperation : Obligations.SelectorSelectsDecodeOperation := by
  refine ⟨fun sel data hlen => ?_, rfl⟩
  have hmax : data.length ≤ dataMax := hlen
  rw [decodeWord_sel sel data hmax, decodeSel_eq]

end Sys2Proof.Machine
end

section
/-! The checksum of a byte sequence (40_checksum.md R93). -/

namespace Sys2Proof.Machine

theorem ckSum_nil : ckSum [] = 0 := rfl

theorem ckSum_append_singleton (bytes : List Byte) (b : Byte) :
    ckSum (bytes ++ [b]) = ckFold (ckSum bytes) b :=
  List.foldl_concat ckFold 0 b bytes

/-- The closed form: the fold's sum law with the accumulator at zero. -/
theorem ckSum_toNat (bytes : List Byte) :
    (ckSum bytes).toNat = (bytes.map BitVec.toNat).sum % 65536 :=
  calc (ckSum bytes).toNat
    _ = ((0 : Word).toNat + (bytes.map BitVec.toNat).sum) % 65536 := foldl_ckFold_toNat bytes 0
    _ = (bytes.map BitVec.toNat).sum % 65536 := by simp

/-- Settles O11: each part is the law of its operation, the closed form coming from the fold's sum law. -/
theorem checksumOperationValues : Obligations.ChecksumOperationValues :=
  ⟨ckInit_toNat, ckFold_toNat, ckSum_nil, ckSum_append_singleton, ckSum_toNat⟩

end Sys2Proof.Machine
end

section
/-! The operation a byte selects in each state (30_encoding.md R62). -/

namespace Sys2Proof.Machine

/-- The SB operation of the selection table, by the state and, in AwaitingHeader, the byte. -/
def byteOp : SyncState → Byte → SbOp
  | .awaitingHeader, b => if b = Config.header then .hdr else .hdrRej
  | .awaitingLengthByte1, _ => .lenHi
  | .awaitingLengthByte2, _ => .lenLo
  | .accumulatingPayload, _ => .pay
  | .awaitingChecksumByte1, _ => .ckbHi
  | .awaitingChecksumByte2, _ => .ckbLo

theorem selectRow_stateKey (st : SyncState) (b : Byte) :
    selectRow sbRows (mkKey st.code b) = some (byteOp st b) := by
  rw [selectRow_sbRows]
  cases st <;> rfl

theorem decodeWord_byte {s : State} {st : SyncState} (hst : s.st = st) (b : Byte) :
    decodeWord (selectWord s.st (.byte b)) = .ok (sbInstr (byteOp st b) b) := by
  simp only [hst, selectWord, decodeWord, decodeSb, selectRow_stateKey, keyByte_mkKey]

theorem byteOp_noHeader {b : Byte} (hb : b ≠ Config.header) : byteOp .awaitingHeader b = .hdrRej :=
  if_neg hb

end Sys2Proof.Machine
end

section
/-! What the store to the payload buffer makes readable (41_frame_sync.md R105). -/

namespace Sys2Proof.Machine

theorem Memory.read_append_length {m : Memory} (b : Byte) (hwf : m.wf = true) :
    (m.append b).read m.length = some b := by
  rw [Memory.read_of_wf _ (m.wf_append b hwf), Memory.contents_append, ← Memory.length_contents]
  exact List.getElem?_concat_length

theorem Memory.read_append_of_ne {m : Memory} (b : Byte) (hwf : m.wf = true) {a : Nat}
    (ha : a ≠ m.length) : (m.append b).read a = m.read a := by
  rw [Memory.read_of_wf _ (m.wf_append b hwf), Memory.read_of_wf m hwf, Memory.contents_append]
  rw [← Memory.length_contents] at ha
  rcases Nat.lt_or_gt_of_ne ha with hlt | hgt
  · exact List.getElem?_append_left hlt
  · have hnone : m.contents[a]? = none := List.getElem?_eq_none hgt.le
    rw [hnone, List.getElem?_eq_none]
    simpa using hgt

end Sys2Proof.Machine
end

section
/-! What FSY's operations give, one lemma for what each computes beyond plain register updates
(41_frame_sync.md R101 to R107). -/

namespace Sys2Proof.Machine

theorem setHiByte_toNat (w : Word) (b : Byte) :
    (setHiByte w b).toNat = b.toNat * 256 + w.toNat % 256 := by
  rw [setHiByte, be16_toNat, loByte_toNat]

/-- In AwaitingHeader the rejection ends no frame, so the state stays whole. -/
theorem fsyHdrRej_awaitingHeader {s : State} (b : Byte) (hst : s.st = .awaitingHeader) :
    fsyHdrRej b s = (s, .frameError (.invalidHeader b)) := by
  rw [fsyHdrRej, raiseError, s.endFrame_of_awaitingHeader hst]

theorem fsyPay_st (b : Byte) (s : State) :
    (fsyPay b s).1.st =
      if s.cnt + 1 + 3 = s.len.toNat then .awaitingChecksumByte1 else .accumulatingPayload := by
  have whole : payloadComplete (s.buf.append b).length s.len = true ↔
      s.cnt + 1 + 3 = s.len.toNat := by
    rw [payloadComplete_iff, Memory.length_append, State.cnt]
  exact if_congr whole rfl rfl

/-- Both verdicts end the frame; only the outcome tells them apart. -/
theorem fsyCkbLo_eq (b : Byte) (s : State) :
    fsyCkbLo b s = (s.endFrame,
      if be16 s.rxh b = s.ck then .finished { payload := s.buf.contents }
      else .frameError (.invalidChecksum s.ck (be16 s.rxh b))) := by
  simp only [fsyCkbLo, checksumMatches_iff, raiseError]
  split_ifs <;> rfl

end Sys2Proof.Machine
end

section
/-! Runs of bytes that are no header (41_frame_sync.md R102). -/

namespace Sys2Proof.Machine

theorem deliver_fsyHdrRej {s : State} (b : Byte) (hst : s.st = .awaitingHeader) :
    deliver (fsyHdrRej b s) = .next (s.setResult (.frameError (.invalidHeader b))) := by
  rw [fsyHdrRej_awaitingHeader b hst, deliver_next, resultOfFsy]

theorem execStepEvent_noHeader {s : State} {b : Byte} (hopen : s.closed = false)
    (hst : s.st = .awaitingHeader) (hb : b ≠ Config.header) :
    execStepEvent (.byte b) s = .next (s.setResult (.frameError (.invalidHeader b))) := by
  rw [execStepEvent_byte b s hopen, consume_noHeader hst hb, deliver_fsyHdrRej b hst]

theorem bytesRun_cons_noHeader {s : State} {b : Byte} (rest : List Byte) (hopen : s.closed = false)
    (hst : s.st = .awaitingHeader) (hb : b ≠ Config.header) :
    bytesRun (b :: rest) s =
      (.frameError (.invalidHeader b) ::
          (bytesRun rest (s.setResult (.frameError (.invalidHeader b)))).1,
        (bytesRun rest (s.setResult (.frameError (.invalidHeader b)))).2) :=
  run_cons_next (execStepEvent_noHeader hopen hst hb) rfl

/-- Each rejection leaves an open state in AwaitingHeader, from which the rest of the run goes on. -/
theorem bytesRun_noHeaders (bytes : List Byte) (s : State) (hopen : s.closed = false)
    (hst : s.st = .awaitingHeader) (hbytes : ∀ b ∈ bytes, b ≠ Config.header) :
    (bytesRun bytes s).1 = bytes.map (fun b => .frameError (.invalidHeader b)) ∧
      (bytesRun bytes s).2 = { s with result := (bytesRun bytes s).2.result } := by
  induction bytes generalizing s with
  | nil => exact ⟨rfl, rfl⟩
  | cons b rest ih =>
    obtain ⟨hb, hrest⟩ := List.forall_mem_cons.mp hbytes
    obtain ⟨hresults, hstate⟩ := ih (s.setResult (.frameError (.invalidHeader b))) hopen hst hrest
    rw [bytesRun_cons_noHeader rest hopen hst hb]
    exact ⟨congrArg _ hresults, hstate⟩

end Sys2Proof.Machine
end

section
/-! The statements about FSY's operations on a byte. -/

namespace Sys2Proof.Machine

/-- Settles O16: the rejected byte ends no frame in AwaitingHeader, and a run rejects byte by byte. -/
theorem hdrRejRejectsEachByte : Obligations.HdrRejRejectsEachByte := by
  intro s hopen hst
  refine ⟨fun b hb => ⟨?_, ?_⟩, fun bytes hbytes => bytesRun_noHeaders bytes s hopen hst hbytes⟩
  · rw [decodeWord_byte hst, byteOp_noHeader hb, sbInstr]
  · exact (execHdrRej_open b s hopen).trans (deliver_fsyHdrRej b hst)

/-- Settles O20: the buffer's clauses are the laws of its one store, the state's is the fill test. -/
theorem payStoresByte : Obligations.PayStoresByte := by
  intro s b hopen hst
  refine ⟨decodeWord_byte hst b, (fsyPay b s).1.setResult .incomplete, execPay_open b s hopen,
    Memory.contents_append s.buf b, Memory.length_append s.buf b, fun hwf => ?_,
    ckFold_toNat s.ck b, fsyPay_st b s, rfl⟩
  exact ⟨s.buf.wf_append b hwf, Memory.read_append_length b hwf,
    fun _ ha => Memory.read_append_of_ne b hwf ha⟩

/-- Settles O22: both verdicts end the frame, and the outcome is the comparison's. -/
theorem ckbLoJudgesFrame : Obligations.CkbLoJudgesFrame := by
  intro s b hopen hst
  have hconsume := (consume_checksumByte2 b hst).trans (fsyCkbLo_eq b s)
  refine ⟨decodeWord_byte hst b, ⟨(fsyCkbLo b s).1.setResult (resultOfFsy (fsyCkbLo b s).2),
    execCkbLo_open b s hopen, ?_⟩, be16_toNat s.rxh b, ?_, ?_⟩
  · rw [fsyCkbLo_eq]
    refine ⟨s.endFrame_st, s.endFrame_closed, s.endFrame_pending, fun hne => ?_⟩
    rw [if_neg hne, State.setResult_result, resultOfFsy]
  · rw [hconsume, State.endFrame_st]
  · rw [hconsume]

/-- Settles O15: the accumulator is seeded with the header byte, extended to 16 bits. -/
theorem hdrSeedsChecksum : Obligations.HdrSeedsChecksum := by
  intro s hopen hst
  have seed : ckInit 0xAA = 0x00AA := by decide
  refine ⟨decodeWord_byte hst Config.header, ?_⟩
  rw [← seed]
  exact execHdr_open 0xAA s hopen

/-- Settles O17: the length's high byte is replaced, the checksum folded. -/
theorem lenHiTakesHighByte : Obligations.LenHiTakesHighByte := by
  intro s b hopen hst
  exact ⟨decodeWord_byte hst b, (fsyLenHi b s).1.setResult .incomplete, execLenHi_open b s hopen,
    setHiByte_toNat s.len b, ckFold_toNat s.ck b, rfl⟩

/-- Settles O21: two register updates, neither of them to the checksum. -/
theorem ckbHiStoresHighByte : Obligations.CkbHiStoresHighByte := by
  intro s b hopen hst
  exact ⟨decodeWord_byte hst b, execCkbHi_open b s hopen⟩

end Sys2Proof.Machine
end

section
/-! The word an event presents, and the operation it selects (30_encoding.md R61, R62). -/

namespace Sys2Proof.Machine

/-- The operation of the selection tables for an event, by the state. -/
def eventOp (st : SyncState) : Event → Instr
  | .byte b => sbInstr (byteOp st b) b
  | .idle => .idle
  | .reset => .reset
  | .close => .close

theorem decodeWord_event (st : SyncState) (e : Event) :
    decodeWord (selectWord st e) = .ok (eventOp st e) := by
  cases e with
  | byte b => exact decodeWord_byte (s := { State.reset with st := st }) rfl b
  | idle | reset | close => rfl

/-- An event operation on a byte depends on its FSY function in the present state only. -/
theorem acceptEvent_deliver_congr {s : State} {f g : State → State × FsyOutcome} (h : g s = f s) :
    acceptEvent s (fun s => deliver (f s)) = acceptEvent s (fun s => deliver (g s)) := by
  simp only [acceptEvent, h]

/-- The operation a byte selects does what `consume` does in that state. -/
theorem exec_byteOp (s : State) (b : Byte) :
    exec (sbInstr (byteOp s.st b) b) s = execStepEvent (.byte b) s := by
  cases hst : s.st with
  | awaitingHeader =>
    by_cases hb : b = Config.header
    · subst hb
      exact acceptEvent_deliver_congr (consume_header hst)
    · rw [byteOp_noHeader hb]
      exact acceptEvent_deliver_congr (consume_noHeader hst hb)
  | awaitingLengthByte1 => exact acceptEvent_deliver_congr (consume_lengthByte1 b hst)
  | awaitingLengthByte2 => exact acceptEvent_deliver_congr (consume_lengthByte2 b hst)
  | accumulatingPayload => exact acceptEvent_deliver_congr (consume_payload b hst)
  | awaitingChecksumByte1 => exact acceptEvent_deliver_congr (consume_checksumByte1 b hst)
  | awaitingChecksumByte2 => exact acceptEvent_deliver_congr (consume_checksumByte2 b hst)

theorem exec_eventOp (s : State) (e : Event) : exec (eventOp s.st e) s = execStepEvent e s := by
  cases e with
  | byte b => exact exec_byteOp s b
  | idle | reset | close => rfl

@[simp] theorem nextEvent_st (s : State) : (nextEvent s).2.st = s.st := by
  cases h : s.pending with
  | nil => rw [nextEvent_nil s h]
  | cons e rest => rw [nextEvent_cons s e rest h, State.setPending_st]

@[simp] theorem nextEvent_closed (s : State) : (nextEvent s).2.closed = s.closed := by
  cases h : s.pending with
  | nil => rw [nextEvent_nil s h]
  | cons e rest => rw [nextEvent_cons s e rest h, State.setPending_closed]

/-- A step is `STEP` on the next event. -/
theorem step_eq (s : State) : step s = execStepEvent (nextEvent s).1 (nextEvent s).2 := by
  have hword : (fetch s).1 = selectWord (nextEvent s).2.st (nextEvent s).1 := by
    rw [nextEvent_st]; rfl
  simp only [step, hword, decodeWord_event]
  exact exec_eventOp (nextEvent s).2 (nextEvent s).1

end Sys2Proof.Machine
end

section
/-! The state that `STEP` on an event leaves on an open run (43_stream_composition.md R140). -/

namespace Sys2Proof.Machine

/-- The state an operation on a byte leaves: FSY's, with the block's result. -/
def delivered (r : State × FsyOutcome) : State := r.1.setResult (resultOfFsy r.2)

/-- The next state of an open run, with its result. -/
def afterEvent (e : Event) (s : State) : State :=
  match e with
  | .idle => idleEvent s
  | .reset => resetEvent s
  | .close => closeEvent s
  | .byte b => delivered (consume b s)

theorem execStepEvent_open (e : Event) {s : State} (h : s.closed = false) :
    execStepEvent e s = .next (afterEvent e s) := by
  cases e with
  | idle => exact execStepEvent_idle s h
  | reset => exact execStepEvent_reset s h
  | close => exact execStepEvent_close s h
  | byte b => exact execStepEvent_byte b s h

/-- All that `STEP` can answer a next state for. -/
theorem execStepEvent_next {e : Event} {s t : State} (h : execStepEvent e s = .next t) :
    s.closed = false ∧ t = afterEvent e s := by
  obtain ⟨hopen, -⟩ := acceptEvent_next s t _ h
  rw [execStepEvent_open e hopen] at h
  injection h with h
  exact ⟨hopen, h.symm⟩

/-- The result of the block for an event, from FSY's outcome where it is a byte (R140). -/
def eventResult (e : Event) (s : State) : Result :=
  match e with
  | .idle | .reset => .incomplete
  | .close => .ended
  | .byte b => resultOfFsy (consume b s).2

@[simp] theorem afterEvent_result (e : Event) (s : State) :
    (afterEvent e s).result = some (eventResult e s) := by
  cases e <;> rfl

/-- One event of an open run gives its result and leaves the rest of the run. -/
theorem run_cons_open (e : Event) (rest : List Event) {s : State} (h : s.closed = false) :
    run (e :: rest) s =
      (eventResult e s :: (run rest (afterEvent e s)).1, (run rest (afterEvent e s)).2) :=
  run_cons_next (execStepEvent_open e h) (afterEvent_result e s)

/-- A step of a run that has not ended. -/
theorem step_open {s : State} (h : s.closed = false) :
    step s = .next (afterEvent (nextEvent s).1 (nextEvent s).2) := by
  rw [step_eq, execStepEvent_open _ (by rw [nextEvent_closed, h])]

theorem step_closed {s : State} (h : s.closed = true) : step s = .fault .runEnded := by
  rw [step_eq, execStepEvent_closed _ _ (by rw [nextEvent_closed, h])]

theorem step_next {s t : State} (h : step s = .next t) :
    s.closed = false ∧ t = afterEvent (nextEvent s).1 (nextEvent s).2 := by
  rw [step_eq] at h
  obtain ⟨hopen, ht⟩ := execStepEvent_next h
  exact ⟨by rwa [nextEvent_closed] at hopen, ht⟩

end Sys2Proof.Machine
end

section
/-! All that `consume` can do, case by case (41_frame_sync.md R100 to R107). -/

namespace Sys2Proof.Machine

theorem fsyLenLo_tooShort {s : State} {b : Byte} (h : (be16 (hiByte s.len) b).toNat < 6) :
    fsyLenLo b s = (s.endFrame, .frameError (.invalidLength (be16 (hiByte s.len) b))) :=
  if_pos ((lengthRejected_iff _).mpr h)

theorem fsyLenLo_accepted {s : State} {b : Byte} (h : 6 ≤ (be16 (hiByte s.len) b).toNat) :
    fsyLenLo b s =
      ((((s.setLen (be16 (hiByte s.len) b)).setCk (ckFold s.ck b)).setBuf Memory.empty).setSt
        .accumulatingPayload, .incomplete) :=
  if_neg fun hr => absurd ((lengthRejected_iff _).mp hr) (by omega)

theorem fsyPay_eq (b : Byte) (s : State) :
    fsyPay b s = (((s.setBuf (s.buf.append b)).setCk (ckFold s.ck b)).setSt
      (if s.cnt + 1 + 3 = s.len.toNat then .awaitingChecksumByte1 else .accumulatingPayload),
      .incomplete) := by
  rw [← fsyPay_st b s]
  rfl

/-- What `consume b` makes of `s`: the state and FSY's outcome, one constructor for each branch. Every branch
that ends the frame leaves `s.endFrame`. -/
inductive Consumed (b : Byte) (s : State) : State × FsyOutcome → Prop
  | header (hst : s.st = .awaitingHeader) (hb : b = Config.header) :
    Consumed b s ((s.setCk (ckInit b)).setSt .awaitingLengthByte1, .incomplete)
  | noHeader (hst : s.st = .awaitingHeader) (hb : b ≠ Config.header) :
    Consumed b s (s.endFrame, .frameError (.invalidHeader b))
  | lengthHigh (hst : s.st = .awaitingLengthByte1) :
    Consumed b s
      (((s.setLen (setHiByte s.len b)).setCk (ckFold s.ck b)).setSt .awaitingLengthByte2, .incomplete)
  | lengthTooShort (hst : s.st = .awaitingLengthByte2) (hlen : (be16 (hiByte s.len) b).toNat < 6) :
    Consumed b s (s.endFrame, .frameError (.invalidLength (be16 (hiByte s.len) b)))
  | lengthAccepted (hst : s.st = .awaitingLengthByte2) (hlen : 6 ≤ (be16 (hiByte s.len) b).toNat) :
    Consumed b s
      ((((s.setLen (be16 (hiByte s.len) b)).setCk (ckFold s.ck b)).setBuf Memory.empty).setSt
        .accumulatingPayload, .incomplete)
  | payload (hst : s.st = .accumulatingPayload) (hmore : s.cnt + 4 ≠ s.len.toNat) :
    Consumed b s
      (((s.setBuf (s.buf.append b)).setCk (ckFold s.ck b)).setSt .accumulatingPayload, .incomplete)
  | lastPayload (hst : s.st = .accumulatingPayload) (hwhole : s.cnt + 4 = s.len.toNat) :
    Consumed b s
      (((s.setBuf (s.buf.append b)).setCk (ckFold s.ck b)).setSt .awaitingChecksumByte1, .incomplete)
  | checksumHigh (hst : s.st = .awaitingChecksumByte1) :
    Consumed b s ((s.setRxh b).setSt .awaitingChecksumByte2, .incomplete)
  | finished (hst : s.st = .awaitingChecksumByte2) (hck : be16 s.rxh b = s.ck) :
    Consumed b s (s.endFrame, .finished { payload := s.buf.contents })
  | badChecksum (hst : s.st = .awaitingChecksumByte2) (hck : be16 s.rxh b ≠ s.ck) :
    Consumed b s (s.endFrame, .frameError (.invalidChecksum s.ck (be16 s.rxh b)))

theorem consumed (b : Byte) (s : State) : Consumed b s (consume b s) := by
  cases hst : s.st with
  | awaitingHeader =>
    by_cases hb : b = Config.header
    · subst hb
      rw [consume_header hst]
      exact .header hst rfl
    · rw [consume_noHeader hst hb]
      exact .noHeader hst hb
  | awaitingLengthByte1 =>
    rw [consume_lengthByte1 b hst]
    exact .lengthHigh hst
  | awaitingLengthByte2 =>
    rw [consume_lengthByte2 b hst]
    rcases Nat.lt_or_ge (be16 (hiByte s.len) b).toNat 6 with hlen | hlen
    · rw [fsyLenLo_tooShort hlen]
      exact .lengthTooShort hst hlen
    · rw [fsyLenLo_accepted hlen]
      exact .lengthAccepted hst hlen
  | accumulatingPayload =>
    rw [consume_payload b hst, fsyPay_eq]
    by_cases hwhole : s.cnt + 4 = s.len.toNat
    · rw [if_pos hwhole]
      exact .lastPayload hst hwhole
    · rw [if_neg hwhole]
      exact .payload hst hwhole
  | awaitingChecksumByte1 =>
    rw [consume_checksumByte1 b hst]
    exact .checksumHigh hst
  | awaitingChecksumByte2 =>
    rw [consume_checksumByte2 b hst, fsyCkbLo_eq]
    by_cases hck : be16 s.rxh b = s.ck
    · rw [if_pos hck]
      exact .finished hst hck
    · rw [if_neg hck]
      exact .badChecksum hst hck

/-- FSY leaves the pending events alone. -/
theorem Consumed.pending {b : Byte} {s : State} {r : State × FsyOutcome} (h : Consumed b s r) :
    r.1.pending = s.pending := by
  cases h <;> simp

/-- FSY ends no run. -/
theorem Consumed.closed {b : Byte} {s : State} {r : State × FsyOutcome} (h : Consumed b s r) :
    r.1.closed = s.closed := by
  cases h <;> simp

/-- An outcome that ends the frame leaves the state of the frame's end. -/
theorem Consumed.endFrame {b : Byte} {s : State} {r : State × FsyOutcome} (h : Consumed b s r)
    (hr : r.2 ≠ .incomplete) : r.1 = s.endFrame := by
  cases h with
  | noHeader | lengthTooShort | finished | badChecksum => rfl
  | header | lengthHigh | lengthAccepted | payload | lastPayload | checksumHigh => exact absurd rfl hr

/-- 41_frame_sync.md R110. -/
theorem Consumed.st_awaitingHeader_iff {b : Byte} {s : State} {r : State × FsyOutcome}
    (h : Consumed b s r) : r.1.st = .awaitingHeader ↔ r.2 ≠ .incomplete := by
  cases h <;> simp

@[simp] theorem afterEvent_pending (e : Event) (s : State) : (afterEvent e s).pending = s.pending := by
  cases e with
  | byte b => exact (consumed b s).pending
  | reset => exact s.endFrame_pending
  | idle | close => rfl

/-- Only `CLOSE` ends the run. -/
theorem afterEvent_closed_iff (e : Event) (s : State) :
    (afterEvent e s).closed = true ↔ s.closed = true ∨ e = .close := by
  cases e with
  | byte b =>
    have hclosed : (afterEvent (.byte b) s).closed = s.closed := (consumed b s).closed
    simp [hclosed]
  | reset => simp [afterEvent, resetEvent]
  | idle => simp [afterEvent, idleEvent]
  | close => simp [afterEvent, closeEvent]

theorem afterEvent_open {e : Event} {s : State} (h : s.closed = false) (he : e ≠ .close) :
    (afterEvent e s).closed = false := by
  rw [Bool.eq_false_iff, ne_eq, afterEvent_closed_iff]
  simp [h, he]

end Sys2Proof.Machine
end

section
/-! States that differ in dead registers only (10_state.md R26, R27). -/

namespace Sys2Proof.Machine

@[simp] theorem hiByte_setHiByte (w : Word) (b : Byte) : hiByte (setHiByte w b) = b :=
  hiByte_be16 b (loByte w)

theorem LiveEq.refl (s : State) : LiveEq s s := by
  refine ⟨rfl, rfl, rfl, ?_⟩
  unfold LiveRegisters
  split <;> simp

/-- In AwaitingHeader no register is live. -/
theorem LiveEq.of_awaitingHeader {s t : State} (hs : s.st = .awaitingHeader)
    (ht : t.st = .awaitingHeader) (hclosed : s.closed = t.closed) (hpending : s.pending = t.pending) :
    LiveEq s t := by
  refine ⟨hs.trans ht.symm, hclosed, hpending, ?_⟩
  rw [LiveRegisters, hs]
  trivial

theorem LiveEq.endFrame {s t : State} (h : LiveEq s t) : LiveEq s.endFrame t.endFrame :=
  .of_awaitingHeader s.endFrame_st t.endFrame_st (by simp [h.closed]) (by simp [h.pending])

/-- The result is no register of FSY. -/
theorem LiveEq.setResult {s t : State} (h : LiveEq s t) (r r' : Result) :
    LiveEq (s.setResult r) (t.setResult r') :=
  ⟨h.st, h.closed, h.pending, h.registers⟩

/-- FSY reads live registers only (R27), and writes to live registers from them. -/
theorem LiveEq.consume {s t : State} (h : LiveEq s t) (b : Byte) :
    (consume b s).2 = (consume b t).2 ∧ LiveEq (consume b s).1 (consume b t).1 := by
  have registers := h.registers
  cases hs : s.st with
  | awaitingHeader =>
    have ht : t.st = .awaitingHeader := h.st ▸ hs
    by_cases hb : b = Config.header
    · subst hb
      rw [consume_header hs, consume_header ht]
      exact ⟨rfl, rfl, h.closed, h.pending, rfl⟩
    · rw [consume_noHeader hs hb, consume_noHeader ht hb]
      exact ⟨rfl, h.endFrame⟩
  | awaitingLengthByte1 =>
    have ht : t.st = .awaitingLengthByte1 := h.st ▸ hs
    rw [LiveRegisters, hs] at registers
    rw [consume_lengthByte1 b hs, consume_lengthByte1 b ht]
    exact ⟨rfl, rfl, h.closed, h.pending, by simp [fsyLenHi, LiveRegisters, registers]⟩
  | awaitingLengthByte2 =>
    have ht : t.st = .awaitingLengthByte2 := h.st ▸ hs
    rw [LiveRegisters, hs] at registers
    obtain ⟨hck, hhi⟩ := registers
    rw [consume_lengthByte2 b hs, consume_lengthByte2 b ht]
    rcases Nat.lt_or_ge (be16 (hiByte s.len) b).toNat 6 with hlen | hlen
    · rw [fsyLenLo_tooShort hlen, fsyLenLo_tooShort (hhi ▸ hlen), hhi]
      exact ⟨rfl, h.endFrame⟩
    · rw [fsyLenLo_accepted hlen, fsyLenLo_accepted (hhi ▸ hlen), hhi, hck]
      exact ⟨rfl, rfl, h.closed, h.pending, rfl, rfl, rfl⟩
  | accumulatingPayload =>
    have ht : t.st = .accumulatingPayload := h.st ▸ hs
    rw [LiveRegisters, hs] at registers
    obtain ⟨hck, hlen, hbuf⟩ := registers
    rw [consume_payload b hs, consume_payload b ht, fsyPay_eq, fsyPay_eq, State.cnt, State.cnt, hck, hlen,
      hbuf]
    refine ⟨rfl, rfl, h.closed, h.pending, ?_⟩
    by_cases hwhole : t.buf.length + 1 + 3 = t.len.toNat <;> simp [LiveRegisters, hwhole, hlen]
  | awaitingChecksumByte1 =>
    have ht : t.st = .awaitingChecksumByte1 := h.st ▸ hs
    rw [LiveRegisters, hs] at registers
    obtain ⟨hck, hbuf⟩ := registers
    rw [consume_checksumByte1 b hs, consume_checksumByte1 b ht]
    exact ⟨rfl, rfl, h.closed, h.pending, hck, hbuf, rfl⟩
  | awaitingChecksumByte2 =>
    have ht : t.st = .awaitingChecksumByte2 := h.st ▸ hs
    rw [LiveRegisters, hs] at registers
    obtain ⟨hck, hbuf, hrxh⟩ := registers
    rw [consume_checksumByte2 b hs, consume_checksumByte2 b ht, fsyCkbLo_eq, fsyCkbLo_eq, hck, hbuf, hrxh]
    exact ⟨rfl, h.endFrame⟩

theorem LiveEq.afterEvent {s t : State} (h : LiveEq s t) (e : Event) :
    eventResult e s = eventResult e t ∧ LiveEq (afterEvent e s) (afterEvent e t) := by
  cases e with
  | byte b =>
    obtain ⟨houtcome, hstate⟩ := h.consume b
    exact ⟨congrArg resultOfFsy houtcome, hstate.setResult _ _⟩
  | reset => exact ⟨rfl, h.endFrame.setResult _ _⟩
  | idle => exact ⟨rfl, h.setResult _ _⟩
  | close => exact ⟨rfl, h.st, rfl, h.pending, h.registers⟩

theorem LiveEq.nextEvent {s t : State} (h : LiveEq s t) :
    (nextEvent s).1 = (nextEvent t).1 ∧ LiveEq (nextEvent s).2 (nextEvent t).2 := by
  cases hp : s.pending with
  | nil =>
    rw [nextEvent_nil s hp, nextEvent_nil t (h.pending ▸ hp)]
    exact ⟨rfl, h⟩
  | cons e rest =>
    rw [nextEvent_cons s e rest hp, nextEvent_cons t e rest (h.pending ▸ hp)]
    exact ⟨rfl, h.st, h.closed, rfl, h.registers⟩

theorem LiveEq.trace {s t : State} (h : LiveEq s t) (events : List Event) :
    trace events s = trace events t := by
  induction events generalizing s t with
  | nil => rfl
  | cons e rest ih =>
    simp only [Machine.trace] at ih ⊢
    cases hc : s.closed with
    | true => rw [run_closed _ s hc, run_closed _ t (h.closed ▸ hc)]
    | false =>
      obtain ⟨hresult, hstate⟩ := h.afterEvent e
      rw [run_cons_open e rest hc, run_cons_open e rest (h.closed ▸ hc), hresult, ih hstate]

/-- Settles O41: FSY reads live registers only, so the results agree, and so do the states after. -/
theorem deadRegistersAreUnobservable : Obligations.DeadRegistersAreUnobservable := by
  intro s t h
  refine ⟨?_, h.trace⟩
  cases hc : s.closed with
  | true => exact .inl ⟨step_closed hc, step_closed (h.closed ▸ hc)⟩
  | false =>
    obtain ⟨hevent, hnext⟩ := h.nextEvent
    obtain ⟨hresult, hstate⟩ := hnext.afterEvent (Machine.nextEvent s).1
    refine .inr ⟨_, _, step_open hc, step_open (h.closed ▸ hc), ?_, hevent ▸ hstate⟩
    rw [afterEvent_result, afterEvent_result, hresult, hevent]

end Sys2Proof.Machine
end

section
/-! The invariant (10_state.md R28). -/

namespace Sys2Proof.Machine

/-- A byte that does not end the frame is the frame's next one, or the checksum's first. -/
theorem Consumed.framePrefix {b : Byte} {s : State} {r : State × FsyOutcome} (h : Consumed b s r)
    (hr : r.2 = .incomplete) :
    framePrefix r.1 = framePrefix s ++ if s.st = .awaitingChecksumByte1 then [] else [b] := by
  cases h with
  | header hst hb | lengthHigh hst | lengthAccepted hst | payload hst | lastPayload hst | checksumHigh hst =>
    simp_all [Machine.framePrefix]
  | noHeader | lengthTooShort | finished | badChecksum => cases hr

theorem ChecksumInv.of_awaitingHeader {s : State} (h : s.st = .awaitingHeader) : ChecksumInv s :=
  fun hne => absurd h hne

/-- Folding in the frame's next byte keeps the sum. -/
theorem ChecksumInv.fold {b : Byte} {s t : State} (h : ChecksumInv s) (hst : s.st ≠ .awaitingHeader)
    (hck : t.ck = ckFold s.ck b) (hprefix : framePrefix t = framePrefix s ++ [b]) : ChecksumInv t := by
  intro _
  rw [hck, hprefix, ckSum_append_singleton, h hst]

theorem Consumed.checksumInv {b : Byte} {s : State} {r : State × FsyOutcome} (h : Consumed b s r)
    (hinv : ChecksumInv s) : ChecksumInv r.1 := by
  have hprefix := h.framePrefix
  cases h with
  | noHeader | lengthTooShort | finished | badChecksum => exact .of_awaitingHeader s.endFrame_st
  | header hst hb =>
    subst hb
    exact fun _ => rfl
  | lengthHigh hst | lengthAccepted hst | payload hst | lastPayload hst =>
    exact hinv.fold (by simp [hst]) rfl (by simpa [hst] using hprefix)
  | checksumHigh hst =>
    intro _
    simp only [hst, if_true, List.append_nil, forall_const] at hprefix
    rw [hprefix]
    exact hinv (by simp [hst])

theorem State.cnt_of_append {s t : State} {b : Byte} (h : t.buf = s.buf.append b) : t.cnt = s.cnt + 1 := by
  rw [State.cnt, h, Memory.length_append, State.cnt]

theorem Consumed.fillInv {b : Byte} {s : State} {r : State × FsyOutcome} (h : Consumed b s r)
    (hinv : FillInv s) : FillInv r.1 := by
  cases h with
  | noHeader | lengthTooShort | finished | badChecksum => simp [FillInv]
  | header hst | lengthHigh hst => trivial
  | lengthAccepted hst hlen => exact ⟨hlen, Nat.le_trans (show 4 ≤ 6 by decide) hlen⟩
  | payload hst hmore =>
    rw [FillInv, hst] at hinv
    obtain ⟨hmin, hfill⟩ := hinv
    refine ⟨hmin, ?_⟩
    rw [State.cnt_of_append (s := s) rfl]
    exact Nat.lt_of_le_of_ne hfill hmore
  | lastPayload hst hwhole =>
    rw [FillInv, hst] at hinv
    obtain ⟨hmin, -⟩ := hinv
    refine ⟨hmin, ?_⟩
    rw [State.cnt_of_append (s := s) rfl, Nat.add_assoc]
    exact hwhole
  | checksumHigh hst =>
    rw [FillInv, hst] at hinv
    exact hinv

theorem Consumed.canonical {b : Byte} {s : State} {r : State × FsyOutcome} (h : Consumed b s r)
    (hwf : s.buf.wf = true) : r.1.buf.wf = true := by
  cases h with
  | noHeader | lengthTooShort | finished | badChecksum => exact s.endFrame_wf hwf
  | header | lengthHigh | checksumHigh => exact hwf
  | lengthAccepted => exact Memory.wf_empty
  | payload | lastPayload => exact s.buf.wf_append b hwf

theorem bufCap_eq : Config.bufCap = 65532 := rfl

/-- The one store keeps the buffer within its capacity, since the declared length is at most `LEN_MAX`. -/
theorem Consumed.capacity {b : Byte} {s : State} {r : State × FsyOutcome} (h : Consumed b s r)
    (hinv : Inv s) : r.1.cnt ≤ Config.bufCap := by
  obtain ⟨-, hcap, hfill, -⟩ := hinv
  cases h with
  | noHeader | lengthTooShort | finished | badChecksum => exact s.endFrame_cnt hcap
  | header | lengthHigh | checksumHigh => exact hcap
  | lengthAccepted => exact Nat.zero_le _
  | payload hst | lastPayload hst =>
    rw [FillInv, hst] at hfill
    obtain ⟨-, hroom⟩ := hfill
    have hmax := s.len.isLt
    rw [State.cnt_of_append (s := s) rfl, bufCap_eq]
    omega

theorem Consumed.inv {b : Byte} {s : State} {r : State × FsyOutcome} (h : Consumed b s r) (hinv : Inv s) :
    Inv r.1 :=
  ⟨h.canonical hinv.canonical, h.capacity hinv, h.fillInv hinv.fill, h.checksumInv hinv.checksum⟩

theorem Inv.endFrame {s : State} (h : Inv s) : Inv s.endFrame :=
  ⟨s.endFrame_wf h.canonical, s.endFrame_cnt h.capacity, by simp [FillInv],
    .of_awaitingHeader s.endFrame_st⟩

/-- The invariant speaks of the registers only, not of the result, the run flag or the pending events. -/
theorem Inv.of_registers {s t : State} (h : Inv s) (hst : t.st = s.st) (hck : t.ck = s.ck)
    (hlen : t.len = s.len) (hbuf : t.buf = s.buf) : Inv t := by
  obtain ⟨hwf, hcap, hfill, hsum⟩ := h
  refine ⟨hbuf ▸ hwf, ?_, ?_, ?_⟩
  · simpa only [State.cnt, hbuf] using hcap
  · simpa only [FillInv, State.cnt, hst, hlen, hbuf] using hfill
  · simpa only [ChecksumInv, framePrefix, hst, hck, hlen, hbuf] using hsum

theorem Inv.afterEvent {s : State} (h : Inv s) (e : Event) : Inv (afterEvent e s) := by
  cases e with
  | byte b => exact ((consumed b s).inv h).of_registers rfl rfl rfl rfl
  | reset => exact h.endFrame.of_registers rfl rfl rfl rfl
  | idle | close => exact h.of_registers rfl rfl rfl rfl

theorem Inv.nextEvent {s : State} (h : Inv s) : Inv (nextEvent s).2 := by
  cases hp : s.pending with
  | nil => rwa [nextEvent_nil s hp]
  | cons e rest =>
    rw [nextEvent_cons s e rest hp]
    exact h.of_registers rfl rfl rfl rfl

/-- Settles O40: every event keeps the invariant, a byte by the cases of `consume`. -/
theorem stepKeepsInvariant : Obligations.StepKeepsInvariant := by
  intro s t h hstep
  obtain ⟨-, ht⟩ := step_next hstep
  subst ht
  exact h.nextEvent.afterEvent _

/-- Settles O2: after reset the buffer is empty and the state AwaitingHeader. -/
theorem resetSatisfiesInvariant : Obligations.ResetSatisfiesInvariant :=
  ⟨Memory.wf_empty, Nat.zero_le _, trivial, .of_awaitingHeader rfl⟩

end Sys2Proof.Machine
end

section
/-! The decoder and the encoder undo each other (30_encoding.md R61, R62, R69, R75). -/

namespace Sys2Proof.Machine

/-! The bytes of a word. -/

theorem mkKey_keyState_keyByte (key : BitVec 11) : mkKey (keyState key) (keyByte key) = key := by
  apply BitVec.eq_of_toNat_eq
  have := key.isLt
  rw [mkKey_toNat]
  simp only [keyState, keyByte, BitVec.extractLsb'_toNat, Nat.shiftRight_eq_div_pow]
  omega

/-- The bytes of a word are read back as that word. -/
theorem ofBytes_toBytes (w : OpWord) : OpWord.ofBytes w.format w.toBytes = .ok w := by
  cases w with
  | sb key =>
    have hhi : ((keyState key).setWidth 8).toNat < 8 := by
      have := (keyState key).isLt
      rw [BitVec.toNat_setWidth]
      omega
    have hstate : ((keyState key).setWidth 8).setWidth 3 = keyState key := by simp
    simp only [OpWord.format, OpWord.toBytes, OpWord.ofBytes, if_pos hhi, hstate, mkKey_keyState_keyByte]
  | ev code =>
    have hcode : (code.setWidth 8).toNat < 4 := by
      have := code.isLt
      rw [BitVec.toNat_setWidth]
      omega
    have hsame : (code.setWidth 8).setWidth 2 = code := by simp
    simp only [OpWord.format, OpWord.toBytes, OpWord.ofBytes, if_pos hcode, hsame]
  | sel selector data => rfl

theorem setWidth_setWidth_of_lt {n : Nat} {b : Byte} (h : b.toNat < 2 ^ n) :
    (b.setWidth n).setWidth 8 = b := by
  apply BitVec.eq_of_toNat_eq
  rw [BitVec.toNat_setWidth, BitVec.toNat_setWidth, Nat.mod_eq_of_lt h, Nat.mod_eq_of_lt b.isLt]

/-- Bytes that are a word in a format are that word's bytes. -/
theorem toBytes_of_ofBytes {fmt : Format} {bytes : List Byte} {w : OpWord}
    (h : OpWord.ofBytes fmt bytes = .ok w) : w.format = fmt ∧ w.toBytes = bytes := by
  unfold OpWord.ofBytes at h
  split at h
  next hi lo =>
    split at h
    next hlt =>
      cases h
      simp only [OpWord.format, OpWord.toBytes, keyState_mkKey, keyByte_mkKey,
        setWidth_setWidth_of_lt (n := 3) hlt, and_self]
    next => cases h
  next c =>
    split at h
    next hlt =>
      cases h
      simp only [OpWord.format, OpWord.toBytes, setWidth_setWidth_of_lt (n := 2) hlt, and_self]
    next => cases h
  next => cases h; exact ⟨rfl, rfl⟩
  next => cases h
  next => cases h

theorem decode_ok_iff {fmt : Format} {bytes : List Byte} {i : Instr} :
    decode fmt bytes = .ok i ↔ ∃ w, OpWord.ofBytes fmt bytes = .ok w ∧ decodeWord w = .ok i := by
  unfold decode
  cases OpWord.ofBytes fmt bytes <;> simp

/-! The operation of a word. -/

theorem format_of_encodeWord {i : Instr} {w : OpWord} (h : encodeWord i = some w) :
    w.format = i.format := by
  cases i <;> cases h <;> rfl

/-- Exactly the INTERNAL rows have no word (R75). -/
theorem encodeWord_of_format_ne {i : Instr} (h : i.format ≠ .internal) : ∃ w, encodeWord i = some w := by
  cases i with
  | demux | ckInit | ckFold | ckSum | stepEvent => exact absurd rfl h
  | _ => exact ⟨_, rfl⟩


theorem wf_byteOp (st : SyncState) (b : Byte) : (sbInstr (byteOp st b) b).wf = true := by
  cases st with
  | awaitingHeader => by_cases hb : b = Config.header <;> simp [byteOp, sbInstr, Instr.wf, hb]
  | _ => rfl

theorem encodeWord_byteOp (st : SyncState) (b : Byte) :
    encodeWord (sbInstr (byteOp st b) b) = some (.sb (mkKey st.code b)) := by
  cases st with
  | awaitingHeader => by_cases hb : b = Config.header <;> simp [byteOp, sbInstr, hb] <;> rfl
  | _ => rfl

/-- The state codes 6 and 7 have no row (R21, R62). -/
theorem selectRow_sbRows_none {c : BitVec 3} (b : Byte) (h : ∀ st, c ≠ SyncState.code st) :
    selectRow sbRows (mkKey c b) = none := by
  rw [selectRow_sbRows, if_neg (show c ≠ 0 from h .awaitingHeader),
    if_neg (show c ≠ 1 from h .awaitingLengthByte1), if_neg (show c ≠ 2 from h .awaitingLengthByte2),
    if_neg (show c ≠ 3 from h .accumulatingPayload), if_neg (show c ≠ 4 from h .awaitingChecksumByte1),
    if_neg (show c ≠ 5 from h .awaitingChecksumByte2)]

/-- Each key that decodes is that of a state and a byte. -/
theorem decodeSb_ok {key : BitVec 11} {i : Instr} (h : decodeSb key = .ok i) :
    ∃ st b, key = mkKey (SyncState.code st) b ∧ i = sbInstr (byteOp st b) b := by
  rw [← mkKey_keyState_keyByte key] at h ⊢
  by_cases hst : ∃ st, keyState key = SyncState.code st
  · obtain ⟨st, hst⟩ := hst
    rw [hst] at h ⊢
    have hdecode := decodeWord_event st (.byte (keyByte key))
    exact ⟨st, keyByte key, rfl, Except.ok.inj (h.symm.trans hdecode)⟩
  · rw [decodeSb, selectRow_sbRows_none _ (not_exists.mp hst)] at h
    cases h

/-- The EV rows are the codes 0, 2 and 3 (R61). -/
theorem decodeEv_ok {code : BitVec 2} {i : Instr} (h : decodeEv code = .ok i) :
    i.format = .ev ∧ i.wf = true ∧ encodeWord i = some (.ev code) := by
  have hcodes : ∀ c : BitVec 2, c = 0 ∨ c = 1 ∨ c = 2 ∨ c = 3 := by decide
  rcases hcodes code with rfl | rfl | rfl | rfl <;> cases h <;> exact ⟨rfl, rfl, rfl⟩

theorem wf_cmdUnsup_iff {sel : Byte} : (Instr.cmdUnsup sel).wf = true ↔ sel ≠ 0xAD ∧ sel ≠ 0xAE := by
  rw [Instr.wf, Bool.and_eq_true, bne_iff_ne, bne_iff_ne]
  rfl

theorem decodeSel_wf {selector : Byte} {data : List Byte} (h : data.length ≤ dataMax) :
    (decodeSel selector data).format = .sel ∧ (decodeSel selector data).wf = true ∧
      (encodeWord (decodeSel selector data) = some (.sel selector data) ∨
        decodeSel selector data = .cmdUnsup selector) := by
  rw [decodeSel_eq]
  split_ifs with hdist hspeed
  · exact ⟨rfl, decide_eq_true h, .inl (hdist ▸ rfl)⟩
  · exact ⟨rfl, decide_eq_true h, .inl (hspeed ▸ rfl)⟩
  · exact ⟨rfl, wf_cmdUnsup_iff.mpr ⟨hdist, hspeed⟩, .inr rfl⟩

/-- A word that decodes is the word of a well-formed operation of its format; only `CMD_UNSUP` drops a part
of it, the command data (R130). -/
theorem decodeWord_ok {w : OpWord} {i : Instr} (h : decodeWord w = .ok i) :
    i.format = w.format ∧ i.wf = true ∧
      (encodeWord i = some w ∨ ∃ sel data, i = .cmdUnsup sel ∧ w = .sel sel data) := by
  cases w with
  | sb key =>
    obtain ⟨st, b, rfl, rfl⟩ := decodeSb_ok h
    have hencode := encodeWord_byteOp st b
    exact ⟨(format_of_encodeWord hencode).symm, wf_byteOp st b, .inl hencode⟩
  | ev code =>
    obtain ⟨hformat, hwf, hencode⟩ := decodeEv_ok h
    exact ⟨hformat, hwf, .inl hencode⟩
  | sel selector data =>
    by_cases hlen : data.length ≤ dataMax
    · rw [decodeWord_sel selector data hlen] at h
      cases h
      obtain ⟨hformat, hwf, hencode | hunsup⟩ := decodeSel_wf (selector := selector) hlen
      · exact ⟨hformat, hwf, .inl hencode⟩
      · exact ⟨hformat, hwf, .inr ⟨selector, data, hunsup, rfl⟩⟩
    · rw [decodeWord, if_neg hlen] at h
      cases h

/-- The word of a well-formed operation decodes to it. -/
theorem decodeWord_encodeWord {i : Instr} {w : OpWord} (hwf : i.wf = true) (h : encodeWord i = some w) :
    decodeWord w = .ok i := by
  cases i with
  | hdr b =>
    cases h
    have hb : b = Config.header := by simpa [Instr.wf] using hwf
    subst hb
    exact decodeWord_event .awaitingHeader (.byte Config.header)
  | hdrRej b =>
    cases h
    have hb : b ≠ Config.header := by simpa [Instr.wf] using hwf
    have hdecode := decodeWord_event .awaitingHeader (.byte b)
    rwa [eventOp, byteOp_noHeader hb] at hdecode
  | lenHi b => cases h; exact decodeWord_event .awaitingLengthByte1 (.byte b)
  | lenLo b => cases h; exact decodeWord_event .awaitingLengthByte2 (.byte b)
  | pay b => cases h; exact decodeWord_event .accumulatingPayload (.byte b)
  | ckbHi b => cases h; exact decodeWord_event .awaitingChecksumByte1 (.byte b)
  | ckbLo b => cases h; exact decodeWord_event .awaitingChecksumByte2 (.byte b)
  | idle | reset | close => cases h; rfl
  | cmdDist data | cmdSpeed data =>
    cases h
    rw [decodeWord_sel _ data (of_decide_eq_true hwf)]
    rfl
  | cmdUnsup sel =>
    cases h
    obtain ⟨hdist, hspeed⟩ := wf_cmdUnsup_iff.mp hwf
    rw [decodeWord_sel sel [] (Nat.zero_le _), decodeSel_eq, if_neg hdist, if_neg hspeed]
  | demux | ckInit | ckFold | ckSum | stepEvent => cases h

/-- Settles O7: the bytes are read back as the word, and the word decodes to its operation. -/
theorem decodeOfEncodeIsIdentity : Obligations.DecodeOfEncodeIsIdentity := by
  intro i hwf
  refine ⟨fun hformat => ?_, fun bytes hencode => ?_⟩
  · obtain ⟨w, hw⟩ := encodeWord_of_format_ne hformat
    exact ⟨w.toBytes, by rw [encode, hw, Option.map_some]⟩
  · obtain ⟨w, hw, rfl⟩ := Option.map_eq_some_iff.mp hencode
    rw [← format_of_encodeWord hw, decode_ok_iff]
    exact ⟨w, ofBytes_toBytes w, decodeWord_encodeWord hwf hw⟩

/-- Settles O8: the bytes are those of the word, and the word is that of the operation. -/
theorem decodedBytesEncodeBack : Obligations.DecodedBytesEncodeBack := by
  intro fmt bytes i hdecode
  obtain ⟨w, hread, hword⟩ := decode_ok_iff.mp hdecode
  obtain ⟨rfl, rfl⟩ := toBytes_of_ofBytes hread
  obtain ⟨hformat, hwf, hencode | ⟨sel, data, hunsup, rfl⟩⟩ := decodeWord_ok hword
  · exact ⟨hformat, hwf, .inl (by rw [encode, hencode, Option.map_some])⟩
  · exact ⟨hformat, hwf, .inr ⟨sel, data, hunsup, rfl⟩⟩

end Sys2Proof.Machine
end

section
/-! The statements about reset, the step, and the selection of operations. -/

namespace Sys2Proof.Machine

/-- Settles O1: the fields of the power-on state (R36). -/
theorem resetAwaitsHeader : Obligations.ResetAwaitsHeader :=
  ⟨rfl, rfl, rfl, rfl⟩

/-- Settles O3: a step is `STEP` on the next event, which is what the selected operation does. -/
theorem stepRunsDecodedOperation : Obligations.StepRunsDecodedOperation := by
  intro s
  refine ⟨fun e rest i hpending hdecode => ?_, fun hpending => ?_⟩
  · rw [decodeWord_event] at hdecode
    rw [step_eq, nextEvent_cons s e rest hpending, ← Except.ok.inj hdecode]
    exact (exec_eventOp (s.setPending rest) e).symm
  · rw [step_eq, nextEvent_nil s hpending]
    rfl

/-- Settles O4: fifteen closed words, read by the three tables. -/
theorem writtenOutWordsDecode : Obligations.WrittenOutWordsDecode :=
  ⟨rfl, rfl, rfl, rfl, rfl, rfl, rfl, rfl, rfl, rfl, rfl, rfl, rfl, rfl, rfl⟩

/-- Settles O5: the key of a state and a byte selects that state's row. -/
theorem everyEventSelectsItsOperation : Obligations.EveryEventSelectsItsOperation := by
  intro st b
  refine ⟨?_, rfl, rfl, rfl⟩
  rw [decodeWord_event, eventOp]
  cases st with
  | awaitingHeader =>
    show Except.ok (sbInstr (if b = 0xAA then .hdr else .hdrRej) b) = _
    split_ifs <;> rfl
  | _ => rfl

/-- Settles O9: the selected operation is the event's, and both do what `STEP` does. -/
theorem stepEventRunsSelectedOperation : Obligations.StepEventRunsSelectedOperation := by
  intro s e i hopen hdecode
  rw [decodeWord_event] at hdecode
  rw [← Except.ok.inj hdecode, exec_eventOp]
  exact ⟨afterEvent e s, execStepEvent_open e hopen, execStepEvent_open e hopen⟩

/-- Settles O10: the state is FSY's, the result its outcome with a finished frame decoded. -/
theorem stepResultComposesFsyAndPdx : Obligations.StepResultComposesFsyAndPdx := by
  intro s b hopen
  refine ⟨afterEvent (.byte b) s, execStepEvent_open (.byte b) hopen, rfl, ?_⟩
  rw [afterEvent_result, eventResult]
  cases (consume b s).2 with
  | finished frame => cases h : demux frame.payload <;> simp [resultOfFsy, resultOfDecoded, h]
  | incomplete | frameError => rfl

/-- Settles O39: an open run always has a successor, and the words of its events all decode. -/
theorem stepIsTotalUntilClose : Obligations.StepIsTotalUntilClose := by
  intro s
  refine ⟨fun hopen => ⟨_, _, step_open hopen, afterEvent_result _ _⟩, step_closed, fun x hx => ?_⟩
  cases hc : s.closed with
  | false =>
    rw [step_open hc] at hx
    cases hx
  | true =>
    rw [step_closed hc] at hx
    cases hx

end Sys2Proof.Machine
end

section
/-! The events that are no byte (41_frame_sync.md R108, R109; 43_stream_composition.md R145). -/

namespace Sys2Proof.Machine

/-- Settles O24: only the result is written. -/
theorem idleChangesNothing : Obligations.IdleChangesNothing :=
  fun s hopen => execIdle_open s hopen

/-- Settles O25: the frame ends, and in AwaitingHeader there is none to end. -/
theorem resetReturnsToAwaitingHeader : Obligations.ResetReturnsToAwaitingHeader := by
  intro s hopen
  refine ⟨resetEvent s, execReset_open s hopen, s.endFrame_st, rfl, s.endFrame_closed, s.endFrame_pending,
    fun hst => ?_⟩
  rw [resetEvent, s.endFrame_of_awaitingHeader hst]
  rfl

/-- Settles O26: the run flag and the result are written, the registers stay. -/
theorem closeEndsRun : Obligations.CloseEndsRun :=
  fun s hopen => execClose_open s hopen

end Sys2Proof.Machine
end

section
/-! Every operation in one equation: it stops on an ended run if it takes an event, and else it has its
effect. -/

namespace Sys2Proof.Machine

/-- The state an operation leaves when it is not stopped. -/
def effect (i : Instr) (s : State) : State :=
  match i with
  | .hdr b => delivered (fsyHdr b s)
  | .hdrRej b => delivered (fsyHdrRej b s)
  | .lenHi b => delivered (fsyLenHi b s)
  | .lenLo b => delivered (fsyLenLo b s)
  | .pay b => delivered (fsyPay b s)
  | .ckbHi b => delivered (fsyCkbHi b s)
  | .ckbLo b => delivered (fsyCkbLo b s)
  | .idle => idleEvent s
  | .reset => resetEvent s
  | .close => closeEvent s
  | .cmdDist data => s.setResult (resultOfDecoded (cmdDist data))
  | .cmdSpeed data => s.setResult (resultOfDecoded (cmdSpeed data))
  | .cmdUnsup sel => s.setResult (resultOfDecoded (cmdUnsup sel))
  | .demux payload => s.setResult (resultOfDecoded (demux payload))
  | .ckInit b => s.setCk (ckInit b)
  | .ckFold c b => s.setCk (ckFold c b)
  | .ckSum bytes => s.setCk (ckSum bytes)
  | .stepEvent e => afterEvent e s

theorem exec_open {s : State} (i : Instr) (h : s.closed = false) : exec i s = .next (effect i s) := by
  cases i with
  | stepEvent e => exact execStepEvent_open e h
  | cmdDist | cmdSpeed | cmdUnsup | demux | ckInit | ckFold | ckSum => rfl
  | _ => apply acceptEvent_open; exact h

theorem exec_closed {i : Instr} {s : State} (hi : takesEvent i = true) (h : s.closed = true) :
    exec i s = .fault .runEnded := by
  cases i with
  | cmdDist | cmdSpeed | cmdUnsup | demux | ckInit | ckFold | ckSum => cases hi
  | _ => apply acceptEvent_closed; exact h

/-- The PDX and CSA operations on their own go on after `CLOSE`. -/
theorem exec_of_takesNoEvent {i : Instr} (s : State) (h : takesEvent i = false) :
    exec i s = .next (effect i s) := by
  cases i with
  | cmdDist | cmdSpeed | cmdUnsup | demux | ckInit | ckFold | ckSum => rfl
  | _ => cases h

theorem exec_next {i : Instr} {s t : State} (h : exec i s = .next t) : t = effect i s := by
  cases hc : s.closed with
  | false =>
    rw [exec_open i hc] at h
    injection h with h
    exact h.symm
  | true =>
    cases hi : takesEvent i with
    | true =>
      rw [exec_closed hi hc] at h
      cases h
    | false =>
      rw [exec_of_takesNoEvent s hi] at h
      injection h with h
      exact h.symm

theorem fsyLenLo_frame (b : Byte) (s : State) :
    (fsyLenLo b s).1.pending = s.pending ∧ (fsyLenLo b s).1.closed = s.closed := by
  rcases Nat.lt_or_ge (be16 (hiByte s.len) b).toNat 6 with hlen | hlen
  · rw [fsyLenLo_tooShort hlen]
    exact ⟨s.endFrame_pending, s.endFrame_closed⟩
  · rw [fsyLenLo_accepted hlen]
    exact ⟨rfl, rfl⟩

theorem fsyCkbLo_frame (b : Byte) (s : State) :
    (fsyCkbLo b s).1.pending = s.pending ∧ (fsyCkbLo b s).1.closed = s.closed := by
  rw [fsyCkbLo_eq]
  exact ⟨s.endFrame_pending, s.endFrame_closed⟩

theorem effect_pending (i : Instr) (s : State) : (effect i s).pending = s.pending := by
  cases i with
  | hdrRej | reset => exact s.endFrame_pending
  | lenLo b => exact (fsyLenLo_frame b s).1
  | ckbLo b => exact (fsyCkbLo_frame b s).1
  | stepEvent e => exact afterEvent_pending e s
  | _ => rfl

theorem effect_closed {i : Instr} (s : State) (hclose : i ≠ .close) (hstep : ∀ e, i ≠ .stepEvent e) :
    (effect i s).closed = s.closed := by
  cases i with
  | hdrRej | reset => exact s.endFrame_closed
  | lenLo b => exact (fsyLenLo_frame b s).2
  | ckbLo b => exact (fsyCkbLo_frame b s).2
  | stepEvent e => exact absurd rfl (hstep e)
  | close => exact absurd rfl hclose
  | _ => rfl

theorem effect_closed_iff (i : Instr) (s : State) :
    (effect i s).closed = true ↔ s.closed = true ∨ i = .close ∨ i = .stepEvent .close := by
  cases i with
  | close => simp [effect, closeEvent]
  | stepEvent e => simp [effect, afterEvent_closed_iff]
  | _ => simp [effect_closed]

/-- Settles O27: an event operation and a step on an ended run stop. -/
theorem eventAfterCloseStops : Obligations.EventAfterCloseStops :=
  fun _ hc => ⟨fun _ hi => exec_closed hi hc, step_closed hc⟩

/-- Settles O45: no effect takes a pending event, and only `CLOSE` sets the flag. -/
theorem onlyCloseEndsRun : Obligations.OnlyCloseEndsRun := by
  intro s t i h
  rw [exec_next h]
  exact ⟨effect_pending i s, effect_closed_iff i s⟩

/-- Settles O44: the operations that are left write other fields, or none. -/
theorem otherOperationsKeepBuffer : Obligations.OtherOperationsKeepBuffer := by
  intro s t i hi h
  have hbuf : t.buf = s.buf := by
    rw [exec_next h]
    cases i with
    | lenLo | pay | ckbLo | reset | hdrRej | stepEvent => exact hi.elim
    | _ => rfl
  exact ⟨fun a => by rw [hbuf], by rw [State.cnt, State.cnt, hbuf]⟩

end Sys2Proof.Machine
end


section
/-! The checksum of a byte sequence as arithmetic (40_checksum.md R94, R95). -/

namespace Sys2Proof.Machine

/-- Settles O12: each answers next from any state, with `ck` the value of the operation. -/
theorem checksumOperationsComplete : Obligations.ChecksumOperationsComplete :=
  fun _ c b bytes => ⟨⟨_, rfl, ckInit_toNat b, rfl⟩, ⟨_, rfl, ckFold_toNat c b, rfl⟩,
    ⟨_, rfl, ckSum_toNat bytes, rfl⟩⟩

/-- Seeding is folding into zero. -/
theorem ckInit_eq_ckFold (b : Byte) : ckInit b = ckFold 0 b :=
  (BitVec.zero_add (zext16 b)).symm

/-- Settles O13: the sum's own fold starts with the seed. -/
theorem seededFoldIsChecksum : Obligations.SeededFoldIsChecksum := by
  intro b bytes
  rw [ckInit_eq_ckFold]
  rfl

theorem ckSum_perm {a b : List Byte} (h : a.Perm b) : ckSum a = ckSum b := by
  apply BitVec.eq_of_toNat_eq
  rw [ckSum_toNat, ckSum_toNat, (h.map BitVec.toNat).sum_eq]

theorem ckSum_append (a b : List Byte) : ckSum (a ++ b) = add16 (ckSum a) (ckSum b) := by
  apply BitVec.eq_of_toNat_eq
  rw [add16, BitVec.toNat_add, ckSum_toNat, ckSum_toNat, ckSum_toNat, List.map_append, List.sum_append,
    ← Nat.add_mod]

theorem ckSum_cons (b : Byte) (bytes : List Byte) : ckSum (b :: bytes) = zext16 b + ckSum bytes := by
  calc ckSum (b :: bytes)
    _ = add16 (ckSum [b]) (ckSum bytes) := ckSum_append [b] bytes
    _ = zext16 b + ckSum bytes := congrArg (· + ckSum bytes) (ckInit_eq_ckFold b).symm

theorem zext16_injective {x y : Byte} (h : zext16 x = zext16 y) : x = y := by
  apply BitVec.eq_of_toNat_eq
  rw [← ckInit_toNat x, ← ckInit_toNat y, ckInit, ckInit, h]

/-- One byte changed changes the sum by the difference of the bytes. -/
theorem ckSum_change_sub (a b : List Byte) (x y : Byte) :
    ckSum (a ++ y :: b) - ckSum (a ++ x :: b) = zext16 y - zext16 x := by
  rw [ckSum_append, ckSum_append, ckSum_cons, ckSum_cons, add16, add16]
  abel

theorem ckSum_change_ne (a b : List Byte) {x y : Byte} (h : x ≠ y) :
    ckSum (a ++ y :: b) ≠ ckSum (a ++ x :: b) := by
  intro heq
  have hdiff := ckSum_change_sub a b x y
  rw [heq, BitVec.sub_self] at hdiff
  exact h (zext16_injective (sub_eq_zero.mp hdiff.symm).symm)

/-- Settles O14: order, concatenation and change are laws of the sum modulo 65536. -/
theorem checksumLaws : Obligations.ChecksumLaws := by
  refine ⟨fun _ _ => ckSum_perm, ckSum_append, fun a b => ?_,
    fun a b x y h => ⟨ckSum_change_ne a b h, ckSum_change_sub a b x y⟩⟩
  rw [ckSum_append, ckSum_append, ckSum_cons, show zext16 0 = 0 from rfl, zero_add]

end Sys2Proof.Machine
end

section
/-! The second length byte (41_frame_sync.md R104) and the decode of a finished frame. -/

namespace Sys2Proof.Machine

theorem be16_hiByte_toNat (w : Word) (b : Byte) :
    (be16 (hiByte w) b).toNat = w.toNat / 256 * 256 + b.toNat := by
  rw [be16_toNat, hiByte_toNat]

/-- Settles O18: the accepting branch, as register updates. -/
theorem lenLoAcceptsSixOrMore : Obligations.LenLoAcceptsSixOrMore := by
  intro s b hopen hst hlen
  rw [← be16_hiByte_toNat] at hlen
  refine ⟨decodeWord_byte hst b, delivered (fsyLenLo b s), exec_open (.lenLo b) hopen, ?_⟩
  rw [fsyLenLo_accepted hlen]
  exact ⟨be16_hiByte_toNat s.len b, ckFold_toNat s.ck b, rfl, fun _ => rfl, rfl⟩

/-- Settles O19: the rejecting branch ends the frame with the declared length as operand. -/
theorem lenLoRejectsBelowSix : Obligations.LenLoRejectsBelowSix := by
  intro s b hopen hst hlen
  rw [← be16_hiByte_toNat] at hlen
  refine ⟨decodeWord_byte hst b, delivered (fsyLenLo b s), be16 (hiByte s.len) b,
    exec_open (.lenLo b) hopen, ?_⟩
  rw [fsyLenLo_tooShort hlen]
  exact ⟨s.endFrame_st, rfl, be16_hiByte_toNat s.len b, s.endFrame_closed, s.endFrame_pending⟩

/-- Settles O23: the finished frame's payload is the buffer's content, and `DEMUX` decodes it. -/
theorem ckbLoDecodesFinishedFrame : Obligations.CkbLoDecodesFinishedFrame := by
  intro s t b hopen _ hck hdemux
  cases hdemux
  refine ⟨delivered (fsyCkbLo b s), exec_open (.ckbLo b) hopen, ?_⟩
  rw [fsyCkbLo_eq, if_pos hck]
  exact ⟨rfl, s.endFrame_st, s.endFrame_closed, s.endFrame_pending⟩

end Sys2Proof.Machine
end

section
/-! Where each outcome of FSY comes from, and what it leaves (41_frame_sync.md R110, 60_exceptions.md R161 to
R163). -/

namespace Sys2Proof.Machine

/-- Settles O38: the branches that end the frame are those that leave AwaitingHeader. -/
theorem fsyReturnsToAwaitingHeader : Obligations.FsyReturnsToAwaitingHeader :=
  fun s b => (consumed b s).st_awaitingHeader_iff

/-- A frame's end agrees with power-on reset, no register being live. -/
theorem State.endFrame_liveEq_reset (s : State) :
    LiveEq s.endFrame { State.reset with pending := s.pending, closed := s.closed } :=
  .of_awaitingHeader s.endFrame_st rfl s.endFrame_closed s.endFrame_pending

/-- Settles O42: `RESET` and every outcome but `Incomplete` end the frame. -/
theorem everyResetLeavesTheSameState : Obligations.EveryResetLeavesTheSameState := by
  refine ⟨fun s t h => ?_, fun s b hr => ?_⟩
  · obtain ⟨hst, hclosed, hpending, hregisters⟩ := s.endFrame_liveEq_reset
    rw [exec_next h]
    exact ⟨hst, hclosed, hpending, hregisters⟩
  · rw [(consumed b s).endFrame hr]
    exact s.endFrame_liveEq_reset

/-- A byte that does not end the frame raises the position by one (R29). -/
theorem Consumed.pos {b : Byte} {s : State} {r : State × FsyOutcome} (h : Consumed b s r)
    (hr : r.2 = .incomplete) : r.1.pos = s.pos + 1 := by
  cases h with
  | noHeader | lengthTooShort | finished | badChecksum => cases hr
  | payload hst =>
    rw [State.pos, State.pos, hst]
    exact congrArg (3 + ·) (s.buf.length_append b)
  | lastPayload hst hwhole =>
    rw [State.pos, State.pos, hst]
    show s.len.toNat = 3 + s.cnt + 1
    omega
  | header hst | lengthHigh hst | lengthAccepted hst | checksumHigh hst =>
    rw [State.pos, State.pos, hst]
    rfl

/-- Settles O46: AwaitingHeader is position 0, and each other outcome is one byte further. -/
theorem positionAdvancesByOne : Obligations.PositionAdvancesByOne := by
  refine fun s b => ⟨(consumed b s).pos, fun hr => ?_⟩
  rw [State.pos, (consumed b s).st_awaitingHeader_iff.mpr hr]

end Sys2Proof.Machine
end

section
/-! The result of the block and the outcome of FSY (43_stream_composition.md R140, R141). -/

namespace Sys2Proof.Machine

theorem resultOfFsy_finished (frame : Frame) :
    (∃ p, demux frame.payload = .packet p ∧ resultOfFsy (.finished frame) = .packet p) ∨
      ∃ e, demux frame.payload = .error e ∧ resultOfFsy (.finished frame) = .packetError e := by
  cases h : demux frame.payload with
  | packet p => exact .inl ⟨p, rfl, congrArg resultOfDecoded h⟩
  | error e => exact .inr ⟨e, rfl, congrArg resultOfDecoded h⟩

theorem resultOfFsy_eq_incomplete_iff {o : FsyOutcome} : resultOfFsy o = .incomplete ↔ o = .incomplete := by
  cases o with
  | finished frame => obtain ⟨_, -, h⟩ | ⟨_, -, h⟩ := resultOfFsy_finished frame <;> simp [h]
  | incomplete | frameError => simp [resultOfFsy]

theorem resultOfFsy_eq_frameError_iff {o : FsyOutcome} {e : FrameError} :
    resultOfFsy o = .frameError e ↔ o = .frameError e := by
  cases o with
  | finished frame => obtain ⟨_, -, h⟩ | ⟨_, -, h⟩ := resultOfFsy_finished frame <;> simp [h]
  | incomplete | frameError => simp [resultOfFsy]

theorem resultOfFsy_ne_ended (o : FsyOutcome) : resultOfFsy o ≠ .ended := by
  cases o with
  | finished frame => obtain ⟨_, -, h⟩ | ⟨_, -, h⟩ := resultOfFsy_finished frame <;> simp [h]
  | incomplete | frameError => simp [resultOfFsy]

theorem resultOfFsy_eq_packetError {o : FsyOutcome} {e : PacketError} (h : resultOfFsy o = .packetError e) :
    ∃ frame, o = .finished frame ∧ demux frame.payload = .error e := by
  cases o with
  | finished frame =>
    obtain ⟨_, -, hr⟩ | ⟨e', hdemux, hr⟩ := resultOfFsy_finished frame
    · cases hr.symm.trans h
    · cases hr.symm.trans h
      exact ⟨frame, rfl, hdemux⟩
  | incomplete | frameError => cases h

/-- Packets and decode errors come from finished frames only. -/
theorem finished_of_resultOfFsy {o : FsyOutcome}
    (h : (∃ p, resultOfFsy o = .packet p) ∨ ∃ e, resultOfFsy o = .packetError e) :
    ∃ frame, o = .finished frame := by
  cases o with
  | finished frame => exact ⟨frame, rfl⟩
  | incomplete | frameError => obtain ⟨_, h⟩ | ⟨_, h⟩ := h <;> cases h

/-! Each framing error has one cause. -/

theorem Consumed.invalidHeader_iff {b : Byte} {s : State} {r : State × FsyOutcome} (h : Consumed b s r)
    (x : Byte) : r.2 = .frameError (.invalidHeader x) ↔
      s.st = .awaitingHeader ∧ b ≠ Config.header ∧ x = b := by
  cases h with
  | noHeader hst hb => simp [hst, hb, eq_comm]
  | header hst hb => simp [hb]
  | lengthHigh hst | lengthTooShort hst | lengthAccepted hst | payload hst | lastPayload hst
  | checksumHigh hst | finished hst | badChecksum hst => simp [hst]

theorem Consumed.invalidLength_iff {b : Byte} {s : State} {r : State × FsyOutcome} (h : Consumed b s r)
    (l : Word) : r.2 = .frameError (.invalidLength l) ↔
      s.st = .awaitingLengthByte2 ∧ l = be16 (hiByte s.len) b ∧ l.toNat < 6 := by
  cases h with
  | lengthTooShort hst hlen =>
    constructor
    · rintro ⟨⟩
      exact ⟨hst, rfl, hlen⟩
    · rintro ⟨-, rfl, -⟩
      rfl
  | lengthAccepted hst hlen =>
    constructor
    · rintro ⟨⟩
    · rintro ⟨-, rfl, hshort⟩
      exact absurd hshort (Nat.not_lt.mpr hlen)
  | header hst | noHeader hst | lengthHigh hst | payload hst | lastPayload hst | checksumHigh hst
  | finished hst | badChecksum hst => simp [hst]

theorem Consumed.invalidChecksum_iff {b : Byte} {s : State} {r : State × FsyOutcome} (h : Consumed b s r)
    (c x : Word) : r.2 = .frameError (.invalidChecksum c x) ↔
      s.st = .awaitingChecksumByte2 ∧ c = s.ck ∧ x = be16 s.rxh b ∧ x ≠ c := by
  cases h with
  | badChecksum hst hck =>
    constructor
    · rintro ⟨⟩
      exact ⟨hst, rfl, rfl, hck⟩
    · rintro ⟨-, rfl, rfl, -⟩
      rfl
  | finished hst hck =>
    constructor
    · rintro ⟨⟩
    · rintro ⟨-, rfl, rfl, hne⟩
      exact absurd hck hne
  | header hst | noHeader hst | lengthHigh hst | lengthTooShort hst | lengthAccepted hst | payload hst
  | lastPayload hst | checksumHigh hst => simp [hst]

/-- A frame is finished by the second checksum byte only, with the buffer's content as payload. -/
theorem Consumed.finished_inv {b : Byte} {s : State} {r : State × FsyOutcome} {frame : Frame}
    (h : Consumed b s r) (hr : r.2 = .finished frame) :
    s.st = .awaitingChecksumByte2 ∧ frame.payload = s.buf.contents := by
  cases h with
  | finished hst => cases hr; exact ⟨hst, rfl⟩
  | header | noHeader | lengthHigh | lengthTooShort | lengthAccepted | payload | lastPayload
  | checksumHigh | badChecksum => cases hr

theorem Consumed.st_ne_of_incomplete {b : Byte} {s : State} {r : State × FsyOutcome}
    (h : Consumed b s r) (hr : r.2 = .incomplete) : s.st ≠ .awaitingChecksumByte2 := by
  cases h with
  | noHeader | lengthTooShort | finished | badChecksum => cases hr
  | header hst | lengthHigh hst | lengthAccepted hst | payload hst | lastPayload hst
  | checksumHigh hst => simp [hst]

/-- Settles O35: the result is a framing error exactly when the outcome is, and each has its one cause. -/
theorem framingErrorsHaveTheirCauses : Obligations.FramingErrorsHaveTheirCauses := by
  intro s b hopen
  have hcases := consumed b s
  have hresult : ∀ e, (afterEvent (.byte b) s).result = some (.frameError e) ↔
      (consume b s).2 = .frameError e := by
    intro e
    rw [afterEvent_result, Option.some_inj, eventResult, resultOfFsy_eq_frameError_iff]
  refine ⟨afterEvent (.byte b) s, exec_open (.stepEvent (.byte b)) hopen, fun x => ?_, fun l => ?_,
    fun c x => ?_, fun e he => ?_, fun e he => ?_⟩
  · rw [hresult]
    exact hcases.invalidHeader_iff x
  · rw [hresult, hcases.invalidLength_iff, ← BitVec.toNat_inj, be16_hiByte_toNat]
  · rw [hresult, hcases.invalidChecksum_iff, ← BitVec.toNat_inj (x := x), be16_toNat]
  · rw [hresult] at he
    exact hcases.st_awaitingHeader_iff.mpr (by simp [he])
  · refine ⟨afterEvent e s, exec_open (.stepEvent e) hopen, fun x => ?_⟩
    rcases he with rfl | rfl | rfl <;> simp [eventResult]

/-- Settles O37: the kinds of result, event by event, a byte's from the causes of FSY's outcomes. -/
theorem resultKindsComeFromTheirStates : Obligations.ResultKindsComeFromTheirStates := by
  intro s t e r hexec hr
  rw [exec_next hexec, effect, afterEvent_result, Option.some_inj] at hr
  subst hr
  cases e with
  | idle | reset | close => simp [eventResult]
  | byte b =>
    have hcases := consumed b s
    refine ⟨by simp [eventResult, resultOfFsy_ne_ended], fun x hx => ⟨?_, b, rfl⟩,
      fun l hl => ⟨?_, b, rfl⟩, fun h => ⟨?_, b, rfl⟩, fun hi _ _ => ?_, by simp⟩
    · exact ((hcases.invalidHeader_iff x).mp (resultOfFsy_eq_frameError_iff.mp hx)).1
    · exact ((hcases.invalidLength_iff l).mp (resultOfFsy_eq_frameError_iff.mp hl)).1
    · rcases h with ⟨c, x, hx⟩ | hfinished
      · exact ((hcases.invalidChecksum_iff c x).mp (resultOfFsy_eq_frameError_iff.mp hx)).1
      · obtain ⟨frame, hframe⟩ := finished_of_resultOfFsy hfinished
        exact (hcases.finished_inv hframe).1
    · exact hcases.st_ne_of_incomplete (resultOfFsy_eq_incomplete_iff.mp hi)

/-! Which registers a byte within the frame writes (10_state.md R22 to R25). -/

theorem Consumed.writers {b : Byte} {s : State} {r : State × FsyOutcome} (h : Consumed b s r)
    (hr : r.2 = .incomplete) :
    (r.1.len ≠ s.len → s.st = .awaitingLengthByte1 ∨ s.st = .awaitingLengthByte2) ∧
    (r.1.rxh ≠ s.rxh → s.st = .awaitingChecksumByte1) ∧
    (s.st = .awaitingChecksumByte1 → r.1.ck = s.ck) ∧
    (r.1.buf ≠ s.buf → s.st = .awaitingLengthByte2 ∨ s.st = .accumulatingPayload) := by
  cases h with
  | noHeader | lengthTooShort | finished | badChecksum => cases hr
  | header hst | lengthHigh hst | lengthAccepted hst | payload hst | lastPayload hst
  | checksumHigh hst => simp [hst]

/-- Settles O43: a byte that gives `Incomplete` is a branch of `consume` that goes on with the frame. -/
theorem registersHaveTheirWriters : Obligations.RegistersHaveTheirWriters := by
  intro s t b hexec hr
  rw [exec_next hexec] at hr ⊢
  rw [effect, afterEvent_result, Option.some_inj, eventResult, resultOfFsy_eq_incomplete_iff] at hr
  obtain ⟨hlen, hrxh, hck, hbuf⟩ := (consumed b s).writers hr
  refine ⟨hlen, hrxh, hck, fun ⟨a, ha⟩ => hbuf fun heq => ha ?_⟩
  exact congrArg (fun m => Memory.read m a) heq

end Sys2Proof.Machine
end

section
/-! The decoder of Distance data, in the order of its tests (42_packet_decode.md R123 to R128). -/

namespace Sys2Proof.Machine

/-- The inner length of Distance data, its first two bytes (R125). -/
def innerLength (data : List Byte) : Word := be16 (data.getD 0 0) (data.getD 1 0)

theorem cmdDist_tooShort {data : List Byte} (h : data.length < 5) :
    cmdDist data = .error (.frameTooShort (count16 data.length)) := by
  unfold cmdDist
  split
  · simp at h
    omega
  · rfl

/-- Data of 5 bytes or more, taken apart as `CMD_DIST` does. -/
theorem exists_cons_of_five_le {data : List Byte} (h : 5 ≤ data.length) :
    ∃ effHi effLo speed offHi offLo rest, data = effHi :: effLo :: speed :: offHi :: offLo :: rest := by
  match data, h with
  | effHi :: effLo :: speed :: offHi :: offLo :: rest, _ => exact ⟨_, _, _, _, _, _, rfl⟩

theorem cmdDist_wrongLength {data : List Byte} (h5 : 5 ≤ data.length)
    (hne : (innerLength data).toNat ≠ data.length - 2) :
    cmdDist data = .error (.unexpectedFrameLength (count16 (data.length - 2)) (innerLength data)) := by
  obtain ⟨effHi, effLo, speed, offHi, offLo, rest, rfl⟩ := exists_cons_of_five_le h5
  exact if_pos hne

theorem cmdDist_noStartAngle {data : List Byte} (h5 : 5 ≤ data.length) (h7 : data.length < 7)
    (heq : (innerLength data).toNat = data.length - 2) :
    cmdDist data = .error (.frameTooShort (count16 data.length)) := by
  obtain ⟨effHi, effLo, speed, offHi, offLo, rest, rfl⟩ := exists_cons_of_five_le h5
  refine (if_neg (not_not.mpr heq)).trans ?_
  match rest, h7 with
  | [], _ | [_], _ => rfl

/-- The packet of whole Distance data (R127, R128). -/
def distanceOf (data : List Byte) : Distance where
  speedRaw := data.getD 2 0
  startRaw := be16 (data.getD 5 0) (data.getD 6 0)
  offsetRaw := be16 (data.getD 3 0) (data.getD 4 0)
  distRaw := samples (data.drop 7)

theorem cmdDist_packet {data : List Byte} (h7 : 7 ≤ data.length)
    (heq : (innerLength data).toNat = data.length - 2) :
    cmdDist data = .packet (.distance (distanceOf data)) := by
  obtain ⟨effHi, effLo, speed, offHi, offLo, rest, rfl⟩ :=
    exists_cons_of_five_le (Nat.le_trans (by decide) h7)
  refine (if_neg (not_not.mpr heq)).trans ?_
  match rest, h7 with
  | stHi :: stLo :: triples, _ => rfl

/-- Sample `i` of the bytes: the second and third byte of triple `i` (R128). -/
theorem samples_getElem? (bytes : List Byte) (i : Nat) (h : i < bytes.length / 3) :
    (samples bytes)[i]? = some (be16 (bytes.getD (3 * i + 1) 0) (bytes.getD (3 * i + 2) 0)) := by
  induction bytes using samples.induct generalizing i with
  | case1 sig hi lo rest ih =>
    cases i with
    | zero => rfl
    | succ k =>
      have hk : k < rest.length / 3 := by simp at h; omega
      simpa [samples, Nat.mul_add] using ih k hk
  | case2 bytes hshort =>
    rw [← samples_length, samples.eq_2 bytes hshort] at h
    exact absurd h (Nat.not_lt_zero i)

/-- Whole triples in front give their samples, whatever follows. -/
theorem samples_append {before : List Byte} (h : before.length % 3 = 0) (rest : List Byte) :
    samples (before ++ rest) = samples before ++ samples rest := by
  induction before using samples.induct with
  | case1 sig hi lo before ih =>
    have hbefore : before.length % 3 = 0 := by simp at h; omega
    simp [samples, ih hbefore]
  | case2 before hshort =>
    have hnil : before = [] := by
      have hlen := samples_length before
      rw [samples.eq_2 before hshort, List.length_nil] at hlen
      exact List.eq_nil_of_length_eq_zero (by omega)
    rw [hnil]
    rfl

theorem samples_leftover {left : List Byte} (h : left.length < 3) : samples left = [] :=
  List.eq_nil_of_length_eq_zero (by rw [samples_length]; omega)

theorem samples_signal (x y : Byte) (rest : List Byte) : samples (x :: rest) = samples (y :: rest) := by
  match rest with
  | [] | [_] | _ :: _ :: _ => rfl

/-- All that `CMD_DIST` can report: data without a start angle, or a wrong inner length. -/
theorem cmdDist_error {data : List Byte} {e : PacketError} (h : cmdDist data = .error e) :
    (data.length < 7 ∧ e = .frameTooShort (count16 data.length)) ∨
      (5 ≤ data.length ∧ (innerLength data).toNat ≠ data.length - 2 ∧
        e = .unexpectedFrameLength (count16 (data.length - 2)) (innerLength data)) := by
  rcases Nat.lt_or_ge data.length 5 with h5 | h5
  · rw [cmdDist_tooShort h5] at h
    exact .inl ⟨by omega, (Decoded.error.inj h).symm⟩
  · by_cases heq : (innerLength data).toNat = data.length - 2
    · rcases Nat.lt_or_ge data.length 7 with h7 | h7
      · rw [cmdDist_noStartAngle h5 h7 heq] at h
        exact .inl ⟨h7, (Decoded.error.inj h).symm⟩
      · rw [cmdDist_packet h7 heq] at h
        cases h
    · rw [cmdDist_wrongLength h5 heq] at h
      exact .inr ⟨h5, heq, (Decoded.error.inj h).symm⟩

theorem count16_toNat {n : Nat} (h : n ≤ 65535) : (count16 n).toNat = n := by
  rw [count16, BitVec.toNat_ofNat]
  exact Nat.mod_eq_of_lt (by omega)

end Sys2Proof.Machine
end

section
/-! The demultiplexer (42_packet_decode.md R121, R122, R131). -/

namespace Sys2Proof.Machine

theorem demux_tooShort {payload : List Byte} (h : payload.length < 2) :
    demux payload = .error (.frameTooShort (count16 payload.length)) := by
  match payload, h with
  | [], _ | [_], _ => rfl

theorem demux_cons (version sel : Byte) (data : List Byte) :
    demux (version :: sel :: data) =
      if sel = 0xAD then cmdDist data else if sel = 0xAE then cmdSpeed data else cmdUnsup sel := rfl

/-- All that `DEMUX` can report of a payload with a selector. -/
theorem demux_error {version sel : Byte} {data : List Byte} {e : PacketError}
    (h : demux (version :: sel :: data) = .error e) :
    (sel = 0xAD ∧ cmdDist data = .error e) ∨
      (sel ≠ 0xAD ∧ sel ≠ 0xAE ∧ e = .unsupportedCommandByte sel) := by
  rw [demux_cons] at h
  split_ifs at h with hdist hspeed
  · exact .inl ⟨hdist, h⟩
  · cases h
  · exact .inr ⟨hdist, hspeed, (Decoded.error.inj h).symm⟩

/-- The operation a selector selects does what `DEMUX` does on a payload with that selector. -/
theorem exec_decodeSel (version sel : Byte) (data : List Byte) (s : State) :
    exec (decodeSel sel data) s = exec (.demux (version :: sel :: data)) s := by
  show _ = Host.Outcome.next (s.setResult (resultOfDecoded (demux (version :: sel :: data))))
  rw [decodeSel_eq, demux_cons]
  split_ifs <;> rfl

end Sys2Proof.Machine
end

section
/-! The statements about the packet decoder. -/

namespace Sys2Proof.Machine

/-- On its own `CMD_DIST` writes its value to the result. -/
theorem exec_cmdDist (data : List Byte) (s : State) :
    exec (.cmdDist data) s = .next (s.setResult (resultOfDecoded (cmdDist data))) := rfl

/-- Settles O28: the three tests of `CMD_DIST` in their order. -/
theorem cmdDistErrorsInOrder : Obligations.CmdDistErrorsInOrder := by
  intro s data _
  refine ⟨fun hshort => ?_, fun h5 hne => ?_, fun h5 h7 heq => ?_⟩
  · rw [exec_cmdDist, cmdDist_tooShort hshort]
    rfl
  · rw [exec_cmdDist, cmdDist_wrongLength h5 hne]
    rfl
  · rw [exec_cmdDist, cmdDist_noStartAngle h5 h7 heq]
    rfl

/-- Settles O29: the fields of whole data. -/
theorem cmdDistDecodesFields : Obligations.CmdDistDecodesFields := by
  intro s data _ h7 heq
  refine ⟨distanceOf data, ?_, rfl, rfl, rfl⟩
  rw [exec_cmdDist, cmdDist_packet h7 heq]
  rfl

/-- Settles O30: the samples are those of the data after the fixed part. -/
theorem cmdDistDecodesWholeTriples : Obligations.CmdDistDecodesWholeTriples := by
  intro s data hmax h7 heq
  have hpacket := cmdDist_packet h7 heq
  have hlength : (distanceOf data).distRaw.length = (data.length - 7) / 3 := by
    rw [distanceOf, samples_length, List.length_drop]
  refine ⟨distanceOf data, hpacket, ?_, hlength, by omega, fun i hi => ?_⟩
  · rw [exec_cmdDist, hpacket]
    rfl
  · rw [← List.length_drop] at hi
    have hhi : 7 + (3 * i + 1) = 8 + 3 * i := by omega
    have hlo : 7 + (3 * i + 2) = 9 + 3 * i := by omega
    rw [distanceOf, samples_getElem? _ i hi]
    simp only [List.getD_eq_getElem?_getD, List.getElem?_drop, hhi, hlo]

/-- Settles O31: the command data are not read. -/
theorem cmdSpeedGivesLidarSpeed : Obligations.CmdSpeedGivesLidarSpeed :=
  fun _ _ => rfl

/-- Settles O32: the last row of the selector table is left. -/
theorem cmdUnsupReportsSelector : Obligations.CmdUnsupReportsSelector := by
  intro s sel data hdist hspeed hlen
  refine ⟨?_, rfl⟩
  rw [decodeWord_sel sel data hlen, decodeSel_eq, if_neg hdist, if_neg hspeed]

/-- Settles O33: `DEMUX` writes the result only, and the selected operation writes the same. -/
theorem demuxRunsSelectedOperation : Obligations.DemuxRunsSelectedOperation := by
  intro s payload hmax
  refine ⟨s.setResult (resultOfDecoded (demux payload)), rfl, rfl, fun hshort => ?_, ?_⟩
  · rw [demux_tooShort hshort]
    rfl
  · rintro version sel data i rfl hdecode
    have hlen : data.length ≤ dataMax := by
      simp only [List.length_cons] at hmax
      show data.length ≤ 65530
      omega
    rw [decodeWord_sel sel data hlen] at hdecode
    cases hdecode
    exact exec_decodeSel version sel data s

/-- `CMD_DIST` reads nothing behind the fixed part but the samples and the number of bytes. -/
theorem cmdDist_congr_samples {fixed triples triples' : List Byte} (hfixed : fixed.length = 7)
    (hlen : triples.length = triples'.length) (hsamples : samples triples = samples triples') :
    cmdDist (fixed ++ triples) = cmdDist (fixed ++ triples') := by
  match fixed, hfixed with
  | [_, _, _, _, _, _, _], _ =>
    simp only [List.cons_append, List.nil_append, cmdDist, List.length_cons, hlen, hsamples]

/-- Settles O34: the version is not looked at, and equal samples make equal packets. -/
theorem discardedBytesAreIgnored : Obligations.DiscardedBytesAreIgnored := by
  refine ⟨fun v v' rest => ?_, fun fixed before rest x y hfixed hbefore => ?_,
    fun fixed triples left left' hfixed htriples hleft hsame => ?_⟩
  · match rest with
    | [] | _ :: _ => rfl
  · rw [List.append_assoc, List.append_assoc]
    refine cmdDist_congr_samples hfixed (by simp) ?_
    rw [samples_append hbefore, samples_append hbefore, samples_signal x y]
  · rw [List.append_assoc, List.append_assoc]
    refine cmdDist_congr_samples hfixed (by simp [hsame]) ?_
    rw [samples_append htriples, samples_append htriples, samples_leftover hleft,
      samples_leftover (left := left') (hsame ▸ hleft)]

end Sys2Proof.Machine
end

section
/-! What a decode error of a received frame carries (60_exceptions.md R164 to R166). -/

namespace Sys2Proof.Machine

/-- The payload of a finished frame has 3 to `PAYLOAD_MAX` bytes, each where the buffer reads it. -/
theorem Inv.payload {s : State} (h : Inv s) (hst : s.st = .awaitingChecksumByte2) :
    ∃ version sel data, s.buf.contents = version :: sel :: data ∧ data.length + 2 = s.cnt ∧
      1 ≤ data.length ∧ s.cnt ≤ 65532 ∧ ∀ a, s.buf.read a = (version :: sel :: data)[a]? := by
  obtain ⟨hwf, hcap, hfill, -⟩ := h
  rw [FillInv, hst] at hfill
  obtain ⟨hmin, hwhole⟩ := hfill
  have hcnt : 3 ≤ s.cnt := by
    have hmin : 6 ≤ s.len.toNat := hmin
    have hwhole : s.cnt + 3 = s.len.toNat := hwhole
    omega
  have hlen : s.buf.contents.length = s.cnt := s.buf.length_contents
  match hcontents : s.buf.contents with
  | [] | [_] =>
    simp only [hcontents, List.length_cons, List.length_nil] at hlen
    omega
  | version :: sel :: data =>
    simp only [hcontents, List.length_cons] at hlen
    refine ⟨version, sel, data, rfl, hlen, by omega, hcap, fun a => ?_⟩
    rw [Memory.read_of_wf _ hwf, hcontents]

/-- A decode error at the last byte is that of `DEMUX` on the buffer's content. -/
theorem demux_of_ckbLo_packetError {s : State} {b : Byte} {e : PacketError}
    (hst : s.st = .awaitingChecksumByte2)
    (h : (effect (.ckbLo b) s).result = some (.packetError e)) : demux s.buf.contents = .error e := by
  obtain ⟨frame, hframe, hdemux⟩ := resultOfFsy_eq_packetError (Option.some.inj h)
  have hcases := consumed b s
  rw [consume_checksumByte2 b hst] at hcases
  obtain ⟨-, hpayload⟩ := hcases.finished_inv hframe
  rwa [hpayload] at hdemux

/-- The inner length's bytes are the first two of the data. -/
theorem innerLength_bytes {data : List Byte} (h : 5 ≤ data.length) :
    data[0]? = some (hiByte (innerLength data)) ∧ data[1]? = some (loByte (innerLength data)) := by
  obtain ⟨effHi, effLo, speed, offHi, offLo, rest, rfl⟩ := exists_cons_of_five_le h
  exact ⟨congrArg some (hiByte_be16 effHi effLo).symm, congrArg some (loByte_be16 effHi effLo).symm⟩

/-- Settles O36: the frame's payload has a selector, and the error is that of `DEMUX` on it. -/
theorem decodeErrorOperandsFromFrames : Obligations.DecodeErrorOperandsFromFrames := by
  intro s t b hinv hopen hst hexec
  rw [exec_next hexec]
  obtain ⟨version, sel, data, hcontents, hcnt, hdata, hcap, hread⟩ := hinv.payload hst
  have hst' : (effect (.ckbLo b) s).st = .awaitingHeader := by
    rw [effect, delivered, fsyCkbLo_eq, State.setResult_st, State.endFrame_st]
  have herror : ∀ e, (effect (.ckbLo b) s).result = some (.packetError e) →
      (sel = 0xAD ∧ cmdDist data = .error e) ∨
        (sel ≠ 0xAD ∧ sel ≠ 0xAE ∧ e = .unsupportedCommandByte sel) := by
    intro e he
    have hdemux := demux_of_ckbLo_packetError hst he
    rw [hcontents] at hdemux
    exact demux_error hdemux
  refine ⟨hst', fun n hn => ?_, fun x hx => ?_, fun a e he => ?_⟩
  · obtain ⟨-, hdist⟩ | ⟨-, -, hne⟩ := herror _ hn
    · obtain ⟨hshort, hn⟩ | ⟨-, -, hne⟩ := cmdDist_error hdist
      · cases hn
        rw [count16_toNat (by omega)]
        omega
      · cases hne
    · cases hne
  · obtain ⟨-, hdist⟩ | ⟨hdist, hspeed, hx⟩ := herror _ hx
    · obtain ⟨-, hne⟩ | ⟨-, -, hne⟩ := cmdDist_error hdist <;> cases hne
    · cases hx
      exact ⟨hdist, hspeed, hread 1⟩
  · obtain ⟨hsel, hdist⟩ | ⟨-, -, hne⟩ := herror _ he
    · obtain ⟨-, hne⟩ | ⟨h5, hwrong, he⟩ := cmdDist_error hdist
      · cases hne
      · cases he
        have hcount : (count16 (data.length - 2)).toNat = data.length - 2 := count16_toNat (by omega)
        obtain ⟨hhi, hlo⟩ := innerLength_bytes h5
        refine ⟨fun heq => hwrong (heq ▸ hcount), by omega, hsel ▸ hread 1, ?_, ?_⟩
        · rw [hread 2]
          exact hhi
        · rw [hread 3]
          exact hlo
    · cases hne

end Sys2Proof.Machine
end

section
/-! Well-formed frames as span and checksum (30_encoding.md R63, R71, R72). -/

namespace Sys2Proof.Machine

/-- Header, length bytes and payload: the checksummed span of a frame. -/
def frameSpan (hi lo : Byte) (payload : List Byte) : List Byte := Config.header :: hi :: lo :: payload

theorem frameSpan_concat (hi lo : Byte) (payload : List Byte) (b : Byte) :
    frameSpan hi lo (payload ++ [b]) = frameSpan hi lo payload ++ [b] := rfl

theorem wireSpan_eq (payload : List Byte) :
    wireSpan payload = frameSpan (hiByte (count16 (payload.length + 3)))
      (loByte (count16 (payload.length + 3))) payload := rfl

theorem framePayload_withChecksum (hi lo : Byte) (payload : List Byte) (c : Word) :
    framePayload (withChecksum (frameSpan hi lo payload) c) = payload := by
  have hspan : (withChecksum (frameSpan hi lo payload) c).length - Config.ckBytes =
      (frameSpan hi lo payload).length := by
    simp [withChecksum, Config.ckBytes]
  rw [framePayload, hspan, withChecksum, List.take_left]
  rfl

theorem length_withChecksum_frameSpan (hi lo : Byte) (payload : List Byte) (c : Word) :
    (withChecksum (frameSpan hi lo payload) c).length = payload.length + 5 := by
  simp [withChecksum, frameSpan]

theorem checksumFollows_withChecksum (span : List Byte) :
    checksumFollows (withChecksum span (ckSum span)) span.length = true := by
  simp [checksumFollows, withChecksum]

theorem withChecksum_of_checksumFollows {w : List Byte} {l : Nat} (h : checksumFollows w l = true) :
    w = withChecksum (w.take l) (ckSum (w.take l)) := by
  unfold checksumFollows at h
  split at h
  next ckHi ckLo hdrop =>
    rw [← beq_iff_eq.mp h, withChecksum, hiByte_be16, loByte_be16, ← hdrop, List.take_append_drop]
  next => cases h

theorem declaredLength_withChecksum (hi lo : Byte) (payload : List Byte) (c : Word) :
    declaredLength (withChecksum (frameSpan hi lo payload) c) = some (be16 hi lo).toNat := rfl

theorem wellFormedFrame_cons (first hi lo : Byte) (rest : List Byte) :
    wellFormedFrame (first :: hi :: lo :: rest) = true ↔ first = Config.header ∧
      6 ≤ (be16 hi lo).toNat ∧ rest.length + 3 = (be16 hi lo).toNat + 2 ∧
      checksumFollows (first :: hi :: lo :: rest) (be16 hi lo).toNat = true := by
  simp only [wellFormedFrame, declaredLength, List.head?_cons, Bool.and_eq_true, beq_iff_eq,
    decide_eq_true_eq, Option.some.injEq, List.length_cons, and_assoc]
  exact Iff.rfl

/-- A frame is well-formed when its payload has the declared length and its own checksum follows. -/
theorem wellFormedFrame_iff (w : List Byte) : wellFormedFrame w = true ↔
    ∃ hi lo payload, w = withChecksum (frameSpan hi lo payload) (ckSum (frameSpan hi lo payload)) ∧
      payload.length + 3 = (be16 hi lo).toNat ∧ 6 ≤ (be16 hi lo).toNat := by
  constructor
  · intro h
    match w with
    | first :: hi :: lo :: rest =>
      obtain ⟨rfl, hmin, hlen, hck⟩ := (wellFormedFrame_cons first hi lo rest).mp h
      obtain ⟨n, hn⟩ : ∃ n, (be16 hi lo).toNat = n + 3 := ⟨(be16 hi lo).toNat - 3, by omega⟩
      have hframe := withChecksum_of_checksumFollows hck
      rw [hn] at hframe
      refine ⟨hi, lo, rest.take n, hframe, ?_, hmin⟩
      rw [List.length_take]
      omega
  · rintro ⟨hi, lo, payload, rfl, hlen, hmin⟩
    have hck := checksumFollows_withChecksum (frameSpan hi lo payload)
    rw [show (frameSpan hi lo payload).length = (be16 hi lo).toNat from hlen] at hck
    have hrest := length_withChecksum_frameSpan hi lo payload (ckSum (frameSpan hi lo payload))
    exact (wellFormedFrame_cons _ hi lo _).mpr ⟨rfl, hmin, by rw [← hlen]; exact hrest, hck⟩

end Sys2Proof.Machine
end

section
/-! The run over the bytes of a frame (41_frame_sync.md R112). -/

namespace Sys2Proof.Machine

theorem bytesRun_append (a b : List Byte) (s : State) :
    bytesRun (a ++ b) s =
      ((bytesRun a s).1 ++ (bytesRun b (bytesRun a s).2).1, (bytesRun b (bytesRun a s).2).2) := by
  simp only [bytesRun, List.map_append, run_append]

/-- One more byte, on a run that is still open. -/
theorem bytesRun_concat {bytes : List Byte} {s t : State} {results : List Result} (b : Byte)
    (h : bytesRun bytes s = (results, t)) (hopen : t.closed = false) :
    bytesRun (bytes ++ [b]) s =
      (results ++ [resultOfFsy (consume b t).2], delivered (consume b t)) := by
  have hbyte : bytesRun [b] t = ([resultOfFsy (consume b t).2], delivered (consume b t)) :=
    run_cons_open (.byte b) [] hopen
  rw [bytesRun_append, h, hbyte]

/-- A header and a first length byte leave the second length byte to come. -/
structure AwaitsLengthLow (hi : Byte) (t : State) : Prop where
  st     : t.st = .awaitingLengthByte2
  len    : hiByte t.len = hi
  ck     : t.ck = ckSum [Config.header, hi]
  closed : t.closed = false

theorem bytesRun_header_lengthHigh {s : State} (hopen : s.closed = false)
    (hst : s.st = .awaitingHeader) (hi : Byte) :
    ∃ t, bytesRun [Config.header, hi] s = ([.incomplete, .incomplete], t) ∧ AwaitsLengthLow hi t := by
  have hheader : bytesRun [Config.header] s = ([.incomplete], delivered (fsyHdr Config.header s)) := by
    have h := bytesRun_concat (bytes := []) Config.header rfl hopen
    rwa [consume_header hst] at h
  have hhigh := bytesRun_concat hi hheader hopen
  rw [consume_lengthByte1 hi rfl] at hhigh
  exact ⟨_, hhigh, rfl, hiByte_be16 hi _, rfl, hopen⟩

/-- What FSY holds of a frame once the bytes `payload` of its payload are in. -/
structure HoldsPayload (hi lo : Byte) (payload : List Byte) (t : State) : Prop where
  st       : t.st = if payload.length + 3 = (be16 hi lo).toNat then .awaitingChecksumByte1
    else .accumulatingPayload
  len      : t.len = be16 hi lo
  contents : t.buf.contents = payload
  ck       : t.ck = ckSum (frameSpan hi lo payload)
  closed   : t.closed = false

theorem AwaitsLengthLow.accepted {hi lo : Byte} {t : State} (h : AwaitsLengthLow hi t)
    (hmin : 6 ≤ (be16 hi lo).toNat) :
    (consume lo t).2 = .incomplete ∧ HoldsPayload hi lo [] (delivered (consume lo t)) := by
  obtain ⟨hst, hlen, hck, hopen⟩ := h
  rw [consume_lengthByte2 lo hst, fsyLenLo_accepted (hlen ▸ hmin), hlen, hck]
  have hempty : ¬ ([] : List Byte).length + 3 = (be16 hi lo).toNat := by
    rw [List.length_nil]
    omega
  exact ⟨rfl, (if_neg hempty).symm, rfl, rfl, rfl, hopen⟩

theorem AwaitsLengthLow.tooShort {hi lo : Byte} {t : State} (h : AwaitsLengthLow hi t)
    (hshort : (be16 hi lo).toNat < 6) :
    consume lo t = (t.endFrame, .frameError (.invalidLength (be16 hi lo))) := by
  rw [consume_lengthByte2 lo h.st, fsyLenLo_tooShort (h.len ▸ hshort), h.len]

theorem HoldsPayload.cnt {hi lo : Byte} {payload : List Byte} {t : State}
    (h : HoldsPayload hi lo payload t) : t.cnt = payload.length := by
  rw [State.cnt, ← Memory.length_contents, h.contents]

theorem HoldsPayload.payload {hi lo : Byte} {payload : List Byte} {t : State}
    (h : HoldsPayload hi lo payload t) (b : Byte) (hroom : payload.length + 3 < (be16 hi lo).toNat) :
    (consume b t).2 = .incomplete ∧ HoldsPayload hi lo (payload ++ [b]) (delivered (consume b t)) := by
  have hcnt := h.cnt
  obtain ⟨hst, hlen, hcontents, hck, hopen⟩ := h
  rw [if_neg hroom.ne] at hst
  rw [consume_payload b hst, fsyPay_eq]
  refine ⟨rfl, ?_, hlen, ?_, ?_, hopen⟩
  · rw [List.length_append, List.length_singleton, ← hcnt, ← hlen]
    rfl
  · rw [← hcontents]
    exact Memory.contents_append t.buf b
  · rw [frameSpan_concat, ckSum_append_singleton, ← hck]
    rfl

/-- Up to its payload's end a frame gives `Incomplete` only. -/
theorem bytesRun_frameSpan {s : State} (hopen : s.closed = false) (hst : s.st = .awaitingHeader)
    {hi lo : Byte} (hmin : 6 ≤ (be16 hi lo).toNat) (payload : List Byte)
    (hroom : payload.length + 3 ≤ (be16 hi lo).toNat) :
    ∃ t, bytesRun (frameSpan hi lo payload) s = (List.replicate (payload.length + 3) .incomplete, t) ∧
      HoldsPayload hi lo payload t := by
  induction payload using List.reverseRecOn with
  | nil =>
    obtain ⟨t, hrun, ht⟩ := bytesRun_header_lengthHigh hopen hst hi
    obtain ⟨hresult, hnext⟩ := ht.accepted hmin
    have hlow := bytesRun_concat lo hrun ht.closed
    rw [hresult] at hlow
    exact ⟨_, hlow, hnext⟩
  | append_singleton payload b ih =>
    rw [List.length_append, List.length_singleton] at hroom
    obtain ⟨t, hrun, ht⟩ := ih (by omega)
    obtain ⟨hresult, hnext⟩ := ht.payload b (by omega)
    have hbyte := bytesRun_concat b hrun ht.closed
    rw [hresult, resultOfFsy, ← List.replicate_succ'] at hbyte
    refine ⟨_, ?_, hnext⟩
    rw [frameSpan_concat, hbyte, List.length_append, List.length_singleton, Nat.add_right_comm]

/-- What FSY holds of a frame before the last byte of the checksum. -/
structure AwaitsChecksumLow (hi lo : Byte) (payload : List Byte) (ckHi : Byte) (t : State) : Prop where
  st       : t.st = .awaitingChecksumByte2
  contents : t.buf.contents = payload
  ck       : t.ck = ckSum (frameSpan hi lo payload)
  rxh      : t.rxh = ckHi
  closed   : t.closed = false

theorem bytesRun_checksumHigh {s : State} (hopen : s.closed = false) (hst : s.st = .awaitingHeader)
    {hi lo : Byte} (hmin : 6 ≤ (be16 hi lo).toNat) {payload : List Byte}
    (hlen : payload.length + 3 = (be16 hi lo).toNat) (ckHi : Byte) :
    ∃ t, bytesRun (frameSpan hi lo payload ++ [ckHi]) s =
        (List.replicate (payload.length + 4) .incomplete, t) ∧
      AwaitsChecksumLow hi lo payload ckHi t := by
  obtain ⟨t, hrun, ht⟩ := bytesRun_frameSpan hopen hst hmin payload hlen.le
  have hbyte := bytesRun_concat ckHi hrun ht.closed
  obtain ⟨htst, -, hcontents, hck, htopen⟩ := ht
  rw [if_pos hlen] at htst
  rw [consume_checksumByte1 ckHi htst, fsyCkbHi, resultOfFsy, ← List.replicate_succ'] at hbyte
  exact ⟨_, hbyte, rfl, hcontents, hck, rfl, htopen⟩

/-- The result of a whole frame with the checksum `c` (R107, R140). -/
def verdict (span payload : List Byte) (c : Word) : Result :=
  if c = ckSum span then resultOfDecoded (demux payload)
  else .frameError (.invalidChecksum (ckSum span) c)

theorem AwaitsChecksumLow.consume {hi lo : Byte} {payload : List Byte} {c : Word} {t : State}
    (h : AwaitsChecksumLow hi lo payload (hiByte c) t) :
    (consume (loByte c) t).1 = t.endFrame ∧
      resultOfFsy (consume (loByte c) t).2 = verdict (frameSpan hi lo payload) payload c := by
  obtain ⟨hst, hcontents, hck, hrxh, -⟩ := h
  rw [consume_checksumByte2 _ hst, fsyCkbLo_eq, hrxh, hck, hcontents, be16_hiByte_loByte]
  refine ⟨rfl, ?_⟩
  rw [verdict]
  split_ifs <;> rfl

/-- A frame with its payload as long as declared and any checksum gives `Incomplete` for all bytes but the
last, and there its verdict. -/
theorem bytesRun_frame {s : State} (hopen : s.closed = false) (hst : s.st = .awaitingHeader)
    {hi lo : Byte} (hmin : 6 ≤ (be16 hi lo).toNat) {payload : List Byte}
    (hlen : payload.length + 3 = (be16 hi lo).toNat) (c : Word) :
    ∃ t, bytesRun (withChecksum (frameSpan hi lo payload) c) s =
        (List.replicate (payload.length + 4) .incomplete ++ [verdict (frameSpan hi lo payload) payload c],
          t) ∧
      t.st = .awaitingHeader ∧ t.closed = false := by
  obtain ⟨t, hrun, ht⟩ := bytesRun_checksumHigh hopen hst hmin hlen (hiByte c)
  have hbyte := bytesRun_concat (loByte c) hrun ht.closed
  obtain ⟨hstate, hresult⟩ := ht.consume
  rw [hresult, List.append_assoc] at hbyte
  refine ⟨_, hbyte, ?_, ?_⟩
  · rw [delivered, State.setResult_st, hstate, State.endFrame_st]
  · rw [delivered, State.setResult_closed, hstate, State.endFrame_closed, ht.closed]

theorem bytesRun_wellFormedFrame {s : State} {w : List Byte} (hopen : s.closed = false)
    (hst : s.st = .awaitingHeader) (hw : wellFormedFrame w = true) :
    ∃ t, bytesRun w s =
        (List.replicate (w.length - 1) .incomplete ++ [resultOfDecoded (demux (framePayload w))], t) ∧
      t.st = .awaitingHeader ∧ t.closed = false := by
  obtain ⟨hi, lo, payload, rfl, hlen, hmin⟩ := (wellFormedFrame_iff w).mp hw
  rw [framePayload_withChecksum, length_withChecksum_frameSpan]
  have hframe := bytesRun_frame hopen hst hmin hlen (ckSum (frameSpan hi lo payload))
  rwa [verdict, if_pos rfl] at hframe

end Sys2Proof.Machine
end

section
/-! The statements about runs over frames. -/

namespace Sys2Proof.Machine

/-- Settles O47: the checksum matches, so the verdict is the decode. -/
theorem wellFormedFrameGivesOneResult : Obligations.WellFormedFrameGivesOneResult := by
  intro s w hopen hst hw
  obtain ⟨t, hrun, htst, htopen⟩ := bytesRun_wellFormedFrame hopen hst hw
  rw [hrun]
  exact ⟨rfl, htst, htopen⟩

/-- Settles O48: an error of either class leaves AwaitingHeader on an open run. -/
theorem nextFrameParsesAfterAnyError : Obligations.NextFrameParsesAfterAnyError := by
  intro s t b w hexec herror hw
  obtain ⟨hopen, rfl⟩ := execStepEvent_next (e := .byte b) hexec
  have houtcome : (consume b s).2 ≠ .incomplete := by
    intro h
    rw [afterEvent_result, eventResult, h] at herror
    obtain ⟨_, h⟩ | ⟨_, h⟩ := herror <;> cases h
  have hst : (afterEvent (.byte b) s).st = .awaitingHeader :=
    (consumed b s).st_awaitingHeader_iff.mpr houtcome
  obtain ⟨t, hrun, -, -⟩ := bytesRun_wellFormedFrame (afterEvent_open (e := .byte b) hopen nofun) hst hw
  rw [hrun]
  rfl

theorem be16_count16 {n : Nat} (h : n ≤ 65535) :
    (be16 (hiByte (count16 n)) (loByte (count16 n))).toNat = n := by
  rw [be16_hiByte_loByte, count16_toNat h]

/-- Settles O49: the spans differ in one byte, so their checksums differ. -/
theorem onePayloadByteChangeIsRejected : Obligations.OnePayloadByteChangeIsRejected := by
  intro s before after x y hopen hst hxy hmin hmax
  have hlength : (before ++ y :: after).length = (before ++ x :: after).length := by simp
  rw [← hlength] at hmin hmax
  have hdeclared := be16_count16 (n := (before ++ y :: after).length + 3) (by omega)
  have hne : ckSum (wireSpan (before ++ x :: after)) ≠ ckSum (wireSpan (before ++ y :: after)) := by
    rw [wireSpan_eq, wireSpan_eq, hlength]
    exact ckSum_change_ne (frameSpan _ _ before) after hxy.symm
  obtain ⟨t, hrun, -, -⟩ := bytesRun_frame hopen hst (by omega) hdeclared.symm
    (ckSum (wireSpan (before ++ x :: after)))
  rw [← wireSpan_eq, verdict, if_neg hne] at hrun
  exact congrArg Prod.fst hrun

/-- Settles O50: the length field of a built frame is its payload's length + 3, in 16 bits. -/
theorem builtFrameIsWellFormed : Obligations.BuiltFrameIsWellFormed := by
  intro payload hmin hmax
  have hdeclared := be16_count16 (n := payload.length + 3) (by omega)
  have hframe : wireFrame payload = withChecksum (wireSpan payload) (ckSum (wireSpan payload)) := rfl
  rw [wireSpan_eq] at hframe
  rw [hframe]
  refine ⟨(wellFormedFrame_iff _).mpr ⟨_, _, payload, rfl, hdeclared.symm, by omega⟩,
    framePayload_withChecksum .., ?_, length_withChecksum_frameSpan ..⟩
  rw [declaredLength_withChecksum, hdeclared]

/-- What a well-formed Distance frame carries (R73). -/
theorem wellFormedDistance_payload {w : List Byte} (h : wellFormedDistance w = true) :
    wellFormedFrame w = true ∧ ∃ version data, framePayload w = version :: 0xAD :: data ∧
      7 ≤ data.length ∧ (innerLength data).toNat = data.length - 2 := by
  obtain ⟨hw, hpayload⟩ := Bool.and_eq_true_iff.mp h
  refine ⟨hw, ?_⟩
  split at hpayload
  next version selector effHi effLo rest heq =>
    simp only [Bool.and_eq_true, beq_iff_eq, decide_eq_true_eq] at hpayload
    obtain ⟨⟨rfl, hmin⟩, hinner⟩ := hpayload
    exact ⟨version, effHi :: effLo :: rest, heq, hmin, hinner⟩
  next => cases hpayload

/-- Settles O51: `DEMUX` on the payload is `CMD_DIST` on whole data with a matching inner length. -/
theorem wellFormedDistanceFrameDecodes : Obligations.WellFormedDistanceFrameDecodes := by
  intro s w hopen hst h
  obtain ⟨hw, version, data, hpayload, h7, heq⟩ := wellFormedDistance_payload h
  obtain ⟨t, hrun, -, -⟩ := bytesRun_wellFormedFrame hopen hst hw
  rw [hpayload, demux_cons, if_pos rfl, cmdDist_packet h7 heq] at hrun
  refine ⟨distanceOf data, congrArg Prod.fst hrun, ?_⟩
  obtain ⟨hi, lo, payload, rfl, -, -⟩ := (wellFormedFrame_iff w).mp hw
  rw [framePayload_withChecksum] at hpayload
  rw [distanceOf, samples_length, List.length_drop, length_withChecksum_frameSpan, hpayload,
    List.length_cons, List.length_cons]
  congr 1

/-- Settles O52: a short length ends the frame; a longer one keeps the payload and one byte more silent. -/
theorem falseHeaderSwallowsBytes : Obligations.FalseHeaderSwallowsBytes := by
  intro s hi lo rest hopen hst
  refine ⟨fun hshort => ?_, fun hmin hroom => ?_⟩
  · obtain ⟨t, hrun, ht⟩ := bytesRun_header_lengthHigh hopen hst hi
    have hlow := bytesRun_concat lo hrun ht.closed
    rw [ht.tooShort hshort] at hlow
    have hrun : bytesRun [0xAA, hi, lo] s = _ := hlow
    rw [hrun]
    exact ⟨rfl, t.endFrame_st⟩
  · rcases Nat.lt_or_ge (be16 hi lo).toNat (rest.length + 3) with hlast | hpayload
    · obtain rfl | ⟨payload, ckHi, rfl⟩ := List.eq_nil_or_concat' rest
      · rw [List.length_nil] at hlast
        omega
      · rw [List.length_append, List.length_singleton] at hroom hlast ⊢
        obtain ⟨t, hrun, -⟩ := bytesRun_checksumHigh hopen hst hmin (payload := payload) (by omega) ckHi
        exact congrArg Prod.fst hrun
    · obtain ⟨t, hrun, -⟩ := bytesRun_frameSpan hopen hst hmin rest hpayload
      exact congrArg Prod.fst hrun

end Sys2Proof.Machine
end

section
/-! Runs that stay open, and events that are no byte (43_stream_composition.md R143 to R145). -/

namespace Sys2Proof.Machine

/-- A run has ended exactly when it had before or a `CLOSE` came. -/
theorem run_closed_iff (events : List Event) (s : State) :
    (run events s).2.closed = true ↔ s.closed = true ∨ .close ∈ events := by
  induction events generalizing s with
  | nil => simp
  | cons e rest ih =>
    cases hc : s.closed with
    | true => simp [run_closed _ s hc, hc]
    | false =>
      rw [run_cons_open e rest hc, ih, afterEvent_closed_iff, hc]
      simp [eq_comm]

theorem run_open {events : List Event} {s : State} (hopen : s.closed = false) (h : .close ∉ events) :
    (run events s).2.closed = false := by
  rw [Bool.eq_false_iff, ne_eq, run_closed_iff]
  simp [hopen, h]

/-- On a run that stays open each event has its result. -/
theorem run_length {events : List Event} {s : State} (hopen : s.closed = false) (h : .close ∉ events) :
    (run events s).1.length = events.length := by
  induction events generalizing s with
  | nil => rfl
  | cons e rest ih =>
    rw [List.mem_cons, not_or] at h
    obtain ⟨he, hrest⟩ := h
    rw [run_cons_open e rest hopen, List.length_cons, List.length_cons,
      ih (afterEvent_open hopen (Ne.symm he)) hrest]

theorem trace_append (a b : List Event) (s : State) :
    trace (a ++ b) s = trace a s ++ trace b (run a s).2 := by
  rw [trace, run_append]
  rfl

theorem trace_cons_open (e : Event) (rest : List Event) {s : State} (h : s.closed = false) :
    trace (e :: rest) s = eventResult e s :: trace rest (afterEvent e s) := by
  rw [trace, run_cons_open e rest h]
  rfl

/-- `IDLE` writes the result only, and no trace depends on that. -/
theorem trace_idle_cons (rest : List Event) {s : State} (h : s.closed = false) :
    trace (.idle :: rest) s = .incomplete :: trace rest s := by
  have hlive : LiveEq (idleEvent s) s := ⟨rfl, rfl, rfl, (LiveEq.refl s).registers⟩
  rw [trace_cons_open .idle rest h, eventResult, afterEvent, hlive.trace]

/-- A stream that leaves out `Incomplete` results is not changed by `IDLE` events. -/
theorem filter_trace_noIdle {keep : Result → Bool} (hkeep : keep .incomplete = false)
    (events : List Event) (s : State) :
    (trace events s).filter keep = (trace (events.filter (· ≠ .idle)) s).filter keep := by
  induction events generalizing s with
  | nil => rfl
  | cons e rest ih =>
    cases hc : s.closed with
    | true => rw [trace, trace, run_closed _ s hc, run_closed _ s hc]
    | false =>
      by_cases he : e = .idle
      · subst he
        rw [trace_idle_cons rest hc, List.filter_cons_of_neg (by simp [hkeep]), ih]
        rfl
      · rw [List.filter_cons_of_pos (by simpa using he), trace_cons_open e rest hc,
          trace_cons_open e _ hc, List.filter_cons, List.filter_cons, ih]

/-- Settles O53: the state goes on but for its result, and both streams leave `Incomplete` out. -/
theorem idleEventsAreInvisible : Obligations.IdleEventsAreInvisible := by
  refine ⟨fun s before after hopen hclose => ?_, fun s events => ⟨?_, ?_⟩⟩
  · refine ⟨trace before s, trace after (run before s).2, ?_, trace_append before after s,
      run_length hopen hclose⟩
    rw [trace_append, trace_idle_cons after (run_open hopen hclose)]
  · exact filter_trace_noIdle rfl events s
  · exact filter_trace_noIdle rfl events s

theorem ended_notMem_trace {events : List Event} {s : State} (hopen : s.closed = false)
    (h : .close ∉ events) : .ended ∉ trace events s := by
  induction events generalizing s with
  | nil => exact List.not_mem_nil
  | cons e rest ih =>
    rw [List.mem_cons, not_or] at h
    obtain ⟨he, hrest⟩ := h
    rw [trace_cons_open e rest hopen, List.mem_cons, not_or]
    refine ⟨?_, ih (afterEvent_open hopen (Ne.symm he)) hrest⟩
    cases e with
    | byte b => exact (resultOfFsy_ne_ended _).symm
    | close => exact absurd rfl he
    | idle | reset => nofun

/-- Settles O55: `CLOSE` gives `End` and leaves a run that has ended. -/
theorem runEndsAtFirstClose : Obligations.RunEndsAtFirstClose := by
  intro s before after hopen hclose
  have hafter : trace after (afterEvent .close (run before s).2) = [] := by
    rw [trace, run_closed after _ rfl]
  refine ⟨?_, ended_notMem_trace hopen hclose⟩
  rw [trace_append, trace_cons_open .close after (run_open hopen hclose), hafter]
  rfl

end Sys2Proof.Machine
end

section
/-! The machine's steps over pending events (notes/assumptions/3.md). -/

namespace Sys2Proof.Machine

theorem State.endFrame_setPending (s : State) (events : List Event) :
    (s.setPending events).endFrame = s.endFrame.setPending events := by
  by_cases hst : s.st = .awaitingHeader
  · rw [State.endFrame_of_awaitingHeader (s.setPending events) hst, s.endFrame_of_awaitingHeader hst]
  · rw [State.endFrame_of_frame (s.setPending events) hst, s.endFrame_of_frame hst]
    rfl

/-- FSY neither reads nor writes the pending events. -/
theorem consume_setPending (b : Byte) (s : State) (events : List Event) :
    consume b (s.setPending events) = ((consume b s).1.setPending events, (consume b s).2) := by
  have hend := s.endFrame_setPending events
  cases hst : s.st with
  | awaitingHeader =>
    by_cases hb : b = Config.header
    · subst hb
      rw [consume_header (s := s.setPending events) hst, consume_header hst]
      rfl
    · rw [consume_noHeader (s := s.setPending events) hst hb, consume_noHeader hst hb, fsyHdrRej, raiseError,
        hend]
      rfl
  | awaitingLengthByte1 =>
    rw [consume_lengthByte1 (s := s.setPending events) b hst, consume_lengthByte1 b hst]
    rfl
  | awaitingLengthByte2 =>
    rw [consume_lengthByte2 (s := s.setPending events) b hst, consume_lengthByte2 b hst]
    rcases Nat.lt_or_ge (be16 (hiByte s.len) b).toNat 6 with hlen | hlen
    · rw [fsyLenLo_tooShort (s := s.setPending events) hlen, fsyLenLo_tooShort hlen, hend]
      rfl
    · rw [fsyLenLo_accepted (s := s.setPending events) hlen, fsyLenLo_accepted hlen]
      rfl
  | accumulatingPayload =>
    rw [consume_payload (s := s.setPending events) b hst, consume_payload b hst]
    rfl
  | awaitingChecksumByte1 =>
    rw [consume_checksumByte1 (s := s.setPending events) b hst, consume_checksumByte1 b hst]
    rfl
  | awaitingChecksumByte2 =>
    rw [consume_checksumByte2 (s := s.setPending events) b hst, consume_checksumByte2 b hst, fsyCkbLo_eq,
      fsyCkbLo_eq, hend]
    rfl

theorem afterEvent_setPending (e : Event) (s : State) (events : List Event) :
    afterEvent e (s.setPending events) = (afterEvent e s).setPending events := by
  cases e with
  | byte b =>
    rw [afterEvent, afterEvent, consume_setPending]
    rfl
  | reset =>
    rw [afterEvent, resetEvent, State.endFrame_setPending]
    rfl
  | idle | close => rfl

theorem coreRun_succ {s t : State} (n : Nat) (h : step s = .next t) :
    Host.Core.run core (n + 1) s = Host.Core.run core n t := by
  have hstep : core.step s = .next t := h
  simp only [Host.Core.run, hstep]

/-- The machine over events without `CLOSE` reaches the state of the run. -/
theorem coreRun_eq_run {events : List Event} {s : State} (hopen : s.closed = false)
    (h : .close ∉ events) :
    Host.Core.run core events.length (s.setPending events) =
      .next ((run events s).2.setPending []) := by
  induction events generalizing s with
  | nil => rfl
  | cons e rest ih =>
    rw [List.mem_cons, not_or] at h
    obtain ⟨he, hrest⟩ := h
    have hstep : step (s.setPending (e :: rest)) = .next ((afterEvent e s).setPending rest) := by
      rw [step_open (s := s.setPending (e :: rest)) hopen, nextEvent_cons _ e rest rfl]
      exact congrArg _ (afterEvent_setPending e s rest)
    rw [run_cons_open e rest hopen, List.length_cons, coreRun_succ _ hstep]
    exact ih (afterEvent_open hopen (Ne.symm he)) hrest

/-- Settles O54: step by step the machine takes the events as the run does. -/
theorem runIsTheMachinesSteps : Obligations.RunIsTheMachinesSteps :=
  fun _ _ hopen hclose => ⟨coreRun_eq_run hopen hclose, run_length hopen hclose⟩

end Sys2Proof.Machine
end

section
/-! Endless runs and their finite beginnings (43_stream_composition.md R143). -/

namespace Sys2Proof.Machine

theorem mem_firstEvents_iff {events : Nat → Event} {e : Event} {n : Nat} :
    e ∈ firstEvents events n ↔ ∃ k, k < n ∧ events k = e := by
  simp [firstEvents]

theorem length_firstEvents (events : Nat → Event) (n : Nat) : (firstEvents events n).length = n := by
  simp [firstEvents]

/-- The state in which the run over the first `n` events ends. -/
def stateAfter (events : Nat → Event) (s : State) (n : Nat) : State := (run (firstEvents events n) s).2

theorem stateAfter_closed_iff {events : Nat → Event} {s : State} {n : Nat} (hopen : s.closed = false) :
    (stateAfter events s n).closed = true ↔ ∃ k, k < n ∧ events k = .close := by
  rw [stateAfter, run_closed_iff, hopen, mem_firstEvents_iff]
  simp

theorem stateAfter_succ_closed {events : Nat → Event} {s : State} {n : Nat}
    (h : (stateAfter events s n).closed = true) : (stateAfter events s (n + 1)).closed = true := by
  rw [stateAfter, run_closed_iff] at h ⊢
  exact h.imp_right fun hmem => by rw [firstEvents_succ]; exact List.mem_append_left _ hmem

theorem stateAfter_succ_open {events : Nat → Event} {s : State} {n : Nat}
    (h : (stateAfter events s n).closed = false) :
    stateAfter events s (n + 1) = afterEvent (events n) (stateAfter events s n) := by
  rw [stateAfter, firstEvents_succ, run_append]
  exact congrArg Prod.snd (run_cons_open (events n) [] h)

/-- One more event of an endless run, where the run so far has reached the state of its beginning. -/
theorem endlessState_succ_of_eq {events : Nat → Event} {s : State} {n : Nat}
    (h : endlessState events s n = some (stateAfter events s n)) :
    endlessState events s (n + 1) =
      if (stateAfter events s n).closed = true then none else some (stateAfter events s (n + 1)) := by
  cases hc : (stateAfter events s n).closed with
  | true => exact endlessState_succ_closed h hc
  | false =>
    rw [stateAfter_succ_open hc]
    exact endlessState_succ_next h (execStepEvent_open _ hc)

/-- An endless run has the states of its finite beginnings until the first `CLOSE` has given its result. -/
theorem endlessState_succ (events : Nat → Event) (s : State) (n : Nat) :
    endlessState events s (n + 1) =
      if (stateAfter events s n).closed = true then none else some (stateAfter events s (n + 1)) := by
  induction n with
  | zero => exact endlessState_succ_of_eq rfl
  | succ n ih =>
    cases hc : (stateAfter events s n).closed with
    | true =>
      rw [if_pos hc] at ih
      rw [endlessState_succ_none ih, if_pos (stateAfter_succ_closed hc)]
    | false =>
      rw [hc, if_neg Bool.false_ne_true] at ih
      exact endlessState_succ_of_eq ih

theorem endlessState_of_open {events : Nat → Event} {s : State} {n : Nat}
    (hopen : s.closed = false) (h : ∀ k, k < n → events k ≠ .close) :
    endlessState events s n = some (stateAfter events s n) := by
  cases n with
  | zero => rfl
  | succ n =>
    have hnone : ¬ (stateAfter events s n).closed = true := by
      rw [stateAfter_closed_iff hopen]
      rintro ⟨k, hk, hclose⟩
      exact h k (by omega) hclose
    rw [endlessState_succ, if_neg hnone]

theorem endlessTrace_eq (events : Nat → Event) (s : State) (n : Nat) :
    endlessTrace events s n =
      if (stateAfter events s n).closed = true then none
      else some (eventResult (events n) (stateAfter events s n)) := by
  rw [endlessTrace, endlessState_succ]
  cases hc : (stateAfter events s n).closed with
  | true => rfl
  | false =>
    rw [stateAfter_succ_open hc]
    exact afterEvent_result _ _

theorem trace_firstEvents (events : Nat → Event) (s : State) (n : Nat) :
    trace (firstEvents events n) s = endlessResults events s n := by
  induction n with
  | zero => rfl
  | succ n ih =>
    rw [firstEvents_succ, trace_append, endlessResults_succ, ih, endlessTrace_eq]
    cases hc : (stateAfter events s n).closed with
    | true => exact congrArg _ (congrArg Prod.fst (run_closed [events n] _ hc))
    | false => exact congrArg _ (trace_cons_open (events n) [] hc)

/-- The results of a run's beginning stay as it goes on. -/
theorem endlessResults_prefix (events : Nat → Event) (s : State) {m n : Nat} (h : m ≤ n) :
    endlessResults events s m <+: endlessResults events s n := by
  induction n, h using Nat.le_induction with
  | base => exact List.prefix_refl _
  | succ n _ ih =>
    rw [endlessResults_succ]
    exact ih.trans (List.prefix_append _ _)

/-- Settles O58: an endless run has the states of its beginnings, so their results and their steps. -/
theorem endlessRunContinuesItsBeginnings : Obligations.EndlessRunContinuesItsBeginnings := by
  intro events s n
  refine ⟨trace_firstEvents events s n, fun hopen => ?_, fun m hm => ?_, fun hopen hclose => ?_⟩
  · rw [endlessTrace_eq, ← stateAfter_closed_iff hopen]
    simp
  · have hprefix := endlessResults_prefix events s hm
    exact ⟨hprefix.filter _, hprefix.filter _⟩
  · have hnone : .close ∉ firstEvents events n := by
      rw [mem_firstEvents_iff]
      rintro ⟨k, hk, h⟩
      exact hclose k hk h
    have hmachine := coreRun_eq_run hopen hnone
    rw [length_firstEvents] at hmachine
    exact ⟨stateAfter events s n, endlessState_of_open hopen hclose, hmachine⟩

end Sys2Proof.Machine
end

section
/-! The hand-off queue (43_stream_composition.md R147, R149, R150). -/

namespace Sys2Proof.Machine

theorem packetsOf_cons (r : Result) (rest : List Result) :
    packetsOf (r :: rest) = packetsOf [r] ++ packetsOf rest :=
  List.filterMap_append (l := [r])

theorem HandOff.takeAll_spec {p : Config.OpenParams} {q q' : HandOff} {results : List Result}
    (h : q.takeAll p results = some q') :
    q'.waiting = q.waiting ++ packetsOf results ∧
      (q'.closed = true ↔ q.closed = true ∨ .ended ∈ results) := by
  induction results generalizing q with
  | nil =>
    cases h
    simp [packetsOf]
  | cons r rest ih =>
    rw [HandOff.takeAll_cons] at h
    obtain ⟨q₁, htake, hrest⟩ := Option.bind_eq_some_iff.mp h
    obtain ⟨hwaiting₁, hclosed₁⟩ := HandOff.take_spec htake
    obtain ⟨hwaiting, hclosed⟩ := ih hrest
    refine ⟨?_, ?_⟩
    · rw [hwaiting, hwaiting₁, List.append_assoc, ← packetsOf_cons]
    · rw [hclosed, hclosed₁, List.mem_cons, or_assoc, eq_comm (a := r)]

/-- The queue's depth has no limit, or what waits and the Packets of the results fit it. -/
def HandOff.Fits (p : Config.OpenParams) (q : HandOff) (results : List Result) : Prop :=
  p.queueDepth = none ∨
    ∃ depth, p.queueDepth = some depth ∧ q.waiting.length + (packetsOf results).length ≤ depth

theorem HandOff.Fits.hasRoom {p : Config.OpenParams} {q : HandOff} {packet : Packet} {rest : List Result}
    (h : q.Fits p (.packet packet :: rest)) : q.hasRoom p = true := by
  obtain hnone | ⟨depth, hdepth, hfits⟩ := h
  · rw [HandOff.hasRoom, hnone]
  · rw [packetsOf_cons, List.length_append] at hfits
    have hone : (packetsOf [.packet packet]).length = 1 := rfl
    rw [HandOff.hasRoom, hdepth, decide_eq_true_eq]
    omega

theorem HandOff.Fits.take {p : Config.OpenParams} {q : HandOff} {r : Result} {rest : List Result}
    (h : q.Fits p (r :: rest)) : ∃ q', q.take p r = some q' ∧ q'.Fits p rest := by
  obtain ⟨q', htake⟩ : ∃ q', q.take p r = some q' := by
    cases r with
    | packet packet => exact ⟨_, if_pos h.hasRoom⟩
    | incomplete | frameError | packetError | ended => exact ⟨_, rfl⟩
  refine ⟨q', htake, h.imp_right ?_⟩
  rintro ⟨depth, hdepth, hfits⟩
  obtain ⟨hwaiting, -⟩ := HandOff.take_spec htake
  refine ⟨depth, hdepth, ?_⟩
  rwa [hwaiting, List.length_append, Nat.add_assoc, ← List.length_append, ← packetsOf_cons]

theorem HandOff.Fits.takeAll {p : Config.OpenParams} {q : HandOff} {results : List Result}
    (h : q.Fits p results) : ∃ q', q.takeAll p results = some q' := by
  induction results generalizing q with
  | nil => exact ⟨q, rfl⟩
  | cons r rest ih =>
    obtain ⟨q₁, htake, hfits⟩ := h.take
    obtain ⟨q', hrest⟩ := ih hfits
    exact ⟨q', by rw [HandOff.takeAll_cons, htake, Option.bind_some, hrest]⟩

theorem HandOff.consume_cons {q : HandOff} {first : Packet} {rest : List Packet}
    (h : q.waiting = first :: rest) : q.consume = (.packet first, { q with waiting := rest }) := by
  simp only [HandOff.consume, h]

theorem HandOff.consume_nil {q : HandOff} (h : q.waiting = []) :
    q.consume = (if q.closed = true then .exhausted else .suspended, q) := by
  simp only [HandOff.consume, h]

/-- Settles O59: what one result does, over the trace, and the consumer's two cases. -/
theorem handOffKeepsCompletionOrder : Obligations.HandOffKeepsCompletionOrder := by
  intro p q results
  refine ⟨fun q' => HandOff.takeAll_spec, HandOff.Fits.takeAll, fun first rest => HandOff.consume_cons,
    fun h => ?_⟩
  rw [HandOff.consume_nil h]
  cases q.closed <;> simp

end Sys2Proof.Machine
end

section
/-! The spec's numbers and the exact values of the counts (60_exceptions.md R167, 30_encoding.md R67, R76). -/

namespace Sys2Proof.Machine

/-- Settles O56: the tables of the rules, and the kind code of each error by its cases. -/
theorem causeAndKindCodes : Obligations.CauseAndKindCodes := by
  intro b v u d
  refine ⟨rfl, rfl, rfl, rfl, rfl, rfl, rfl, rfl, rfl, rfl, fun e => ?_, fun e => ?_⟩ <;> cases e <;> rfl

/-- A count over its scale is between 0 and the largest count over the scale. -/
theorem count_div_scale_range {n : Nat} (w : BitVec n) {scale : ℚ} (hscale : 0 < scale) :
    0 ≤ (w.toNat : ℚ) / scale ∧ (w.toNat : ℚ) / scale ≤ ((2 ^ n - 1 : Nat) : ℚ) / scale := by
  have hmax : w.toNat ≤ 2 ^ n - 1 := Nat.le_sub_one_of_lt w.isLt
  exact ⟨by positivity, by gcongr⟩

theorem Distance.radarSpeed_eq (d : Distance) : d.radarSpeed = (d.speedRaw.toNat : ℚ) / 20 := rfl

theorem Distance.startAngle_eq (d : Distance) : d.startAngle = (d.startRaw.toNat : ℚ) / 100 := rfl

theorem Distance.offsetAngle_eq (d : Distance) : d.offsetAngle = (d.offsetRaw.toNat : ℚ) / 100 := rfl

theorem Distance.distances_eq (d : Distance) :
    d.distances = d.distRaw.map fun r => (r.toNat : ℚ) / 4 := rfl

theorem angle_range (w : Word) : 0 ≤ (w.toNat : ℚ) / 100 ∧ (w.toNat : ℚ) / 100 ≤ 65535 / 100 :=
  count_div_scale_range w (by norm_num)

theorem speed_range (b : Byte) : 0 ≤ (b.toNat : ℚ) / 20 ∧ (b.toNat : ℚ) / 20 ≤ 1275 / 100 := by
  obtain ⟨hlow, hhigh⟩ := count_div_scale_range b (scale := 20) (by norm_num)
  exact ⟨hlow, hhigh.trans (by norm_num)⟩

theorem distance_range (w : Word) : 0 ≤ (w.toNat : ℚ) / 4 ∧ (w.toNat : ℚ) / 4 ≤ 1638375 / 100 := by
  obtain ⟨hlow, hhigh⟩ := count_div_scale_range w (scale := 4) (by norm_num)
  exact ⟨hlow, hhigh.trans (by norm_num)⟩

/-- Settles O57: each value is its count over its scale, so its range is the count's over the scale. -/
theorem scaledValuesInRange : Obligations.ScaledValuesInRange := by
  intro d
  rw [d.radarSpeed_eq, d.startAngle_eq, d.offsetAngle_eq, d.distances_eq]
  obtain ⟨hspeed, hspeedMax⟩ := speed_range d.speedRaw
  obtain ⟨hstart, hstartMax⟩ := angle_range d.startRaw
  obtain ⟨hoffset, hoffsetMax⟩ := angle_range d.offsetRaw
  refine ⟨⟨rfl, rfl, rfl, List.length_map .., fun i r hr => ?_⟩, hspeed, hspeedMax, hstart, hstartMax,
    hoffset, hoffsetMax, fun x hx => ?_⟩
  · rw [List.getElem?_map, hr, Option.map_some]
  · obtain ⟨r, -, rfl⟩ := List.mem_map.mp hx
    exact distance_range r

end Sys2Proof.Machine
end
